-- ==== Sys2Proof/Word.lean ====
section
/-! DEFINITION. The bit widths of the trace encoder (00_scope.md R7, R8): the types that every other file names. -/

namespace Sys2Proof

/-- A byte of the output stream (R7). -/
abbrev Byte := BitVec 8

/-- `u64`: addresses, timestamps, counts and deltas; arithmetic is modulo 2^64 (R8, log 16). -/
abbrev U64 := BitVec 64

/-- A compressed-header code `CH`, 2 bits (30_encoding.md R74). -/
abbrev CHCode := BitVec 2

/-- A full-header code `FH`, 3 bits (30_encoding.md R75). -/
abbrev FHCode := BitVec 3

/-- A trap-type code `TT`, 3 bits (30_encoding.md R77). -/
abbrev TTCode := BitVec 3

/-- The six-bit value of a compressed byte (30_encoding.md R71). -/
abbrev SmallValue := BitVec 6

/-- A predictor cell, a two-bit saturating counter (10_state.md R35). -/
abbrev Cell := BitVec 2

end Sys2Proof
end

