-- ==== Sys2Proof/Syntax.lean ====
section
/-! DEFINITION. The names of the trace encoder: event kinds, modes, packets, the packet record, and `Instr`, one
constructor for each of the 47 rows of spec/opcode_table.json. -/

namespace Sys2Proof

/-- The eight kinds of ingress event (10_state.md R21, 30_encoding.md R97). -/
inductive EventKind where
  | none
  | branchTaken
  | branchNotTaken
  | jumpInferable
  | jumpUninferable
  | exception
  | interrupt
  | trapReturn
  deriving DecidableEq, Repr, Inhabited

/-- The four values of `BranchMode` (10_state.md R28). -/
inductive BranchMode where
  | target
  | history
  | prediction
  | reserved
  deriving DecidableEq, Repr, Inhabited

/-- The encoder's control state (10_state.md R26). -/
inductive EncoderState where
  | idle
  | data
  deriving DecidableEq, Repr, Inhabited

/-- What an invariant violation does (60_exceptions.md R247, 92_eei_decisions.md D16). -/
inductive AssertMode where
  | fault
  | continue
  deriving DecidableEq, Repr, Inhabited

/-- The record handed over once per retired instruction (10_state.md R21). -/
structure IngressEvent where
  address   : U64
  timestamp : U64
  kind      : EventKind
  deriving DecidableEq, Repr, Inhabited

/-- The three reasons a Trap packet can carry (43_target_mode.md R196). -/
inductive TrapReason where
  | exception
  | interrupt
  | trapReturn
  deriving DecidableEq, Repr, Inhabited

/-- The four packets `GenDirect` makes (43_target_mode.md R193). -/
inductive DirectKind where
  | tb
  | nt
  | ij
  | miss
  deriving DecidableEq, Repr, Inhabited

/-- The packet record (41_codec.md R137). -/
structure TracePacket where
  compressedHeader : CHCode
  fullHeader       : FHCode
  trapType         : TTCode
  address          : U64
  timestampOrCount : U64
  deriving DecidableEq, Repr, Inhabited

/-- The three byte shapes of a packet (41_codec.md R138). -/
inductive Shape where
  | compressed
  | full1
  | full2
  deriving DecidableEq, Repr, Inhabited

/-- A packet as it stands in the stream, with the values its fields carry (30_encoding.md R78, R80). Whether a Direct
or Hit packet takes the compressed or the full form is no field: the value decides it (R81). -/
inductive Packet where
  | sync (address timestamp : U64)
  | tb (delta : U64)
  | nt (delta : U64)
  | ij (delta : U64)
  | uj (address delta : U64)
  | trap (reason : TrapReason) (address delta : U64)
  | hit (count : U64)
  | miss (delta : U64)
  deriving DecidableEq, Repr, Inhabited

/-- One constructor for each row of spec/opcode_table.json, in the table's order.

A packet row stands for its generator: the generator's operands are registers of the block (43_target_mode.md R193
"Operands: `stage1.timestamp`, `prevTimestamp`"), so its constructor has none. An event row is a `pushIngress` of an
event of that kind. -/
inductive Instr where
  -- packets
  | sync
  | tbC
  | tbF
  | ntC
  | ntF
  | ijC
  | ijF
  | uj
  | trapE
  | trapI
  | trapR
  | hitC
  | hitF
  | missC
  | missF
  | val
  | res
  -- operations of the encoder
  | construct (n : Nat)
  | reset
  | setEnabled (b : Bool)
  | getEnabled
  | getMode
  | setMode (m : BranchMode)
  | pushIngress (event : IngressEvent)
  -- the predictor
  | predictorReset
  | predictorIndex (pc : U64)
  | predictorPredict (pc : U64) (takenActual : Bool)
  | predictorPeek (pc : U64)
  | predictorIncrement (s : Cell)
  | predictorDecrement (s : Cell)
  | predictorIsTaken (s : Cell)
  -- the codec
  | codecMostSignificantBitIndex (x : U64)
  | codecByteCount (msb : Int)
  | codecEncodeVarint (value : U64)
  | codecIsCompressible (delta : U64)
  | codecEncodeCompressed (compressedHeader : CHCode) (smallValue : SmallValue)
  | codecEncodeFullHeader (compressedHeader : CHCode) (fullHeader : FHCode) (trapType : TTCode)
  | codecCompressedHeaderFor (fullHeader : FHCode)
  | codecEncodePacket (p : TracePacket) (shape : Shape)
  -- ingress events by kind
  | eventNONE (address timestamp : U64)
  | eventBT (address timestamp : U64)
  | eventBNT (address timestamp : U64)
  | eventIJ (address timestamp : U64)
  | eventUJ (address timestamp : U64)
  | eventEXC (address timestamp : U64)
  | eventINT (address timestamp : U64)
  | eventRET (address timestamp : U64)
  deriving DecidableEq, Repr

/-- Where a word of the table is read: at the ingress port (30_encoding.md R97), or in a packet stream whose mode is
known out of band (30_encoding.md R86). -/
inductive WordSpace where
  | ingress
  | stream (m : BranchMode)
  deriving DecidableEq, Repr, Inhabited

/-- A pending request of the owner: a call of an operation, or a word of the table handed over as bytes. The queue is
the model's own (log 2, log 4): the block has no program counter and fetches nothing (10_state.md R25). -/
inductive Request where
  | call (i : Instr)
  | word (space : WordSpace) (bytes : List Byte)
  deriving DecidableEq, Repr

/-- One line of an operation script (30_encoding.md R99), as data. -/
inductive ScriptLine where
  | new (n : Nat)
  | reset
  | enable
  | disable
  | mode (m : BranchMode)
  | push (address timestamp : U64) (kind : EventKind)
  | peek (address : U64)
  deriving DecidableEq, Repr

end Sys2Proof
end

