-- ==== Sys2Proof/Config.lean ====
section
/-! DEFINITION. What an implementation fixes: the parameters a model takes as arguments (00_scope.md R6, end of
92_eei_decisions.md), and the one free value. The default values stand in Machine/Codes.lean. -/

namespace Sys2Proof

/-- The parameters of one block. No operation changes them; a machine state carries them as plain data, so that a
statement holds for every value of them (log 26). `TT[NONE]` is 0 by the source and is no parameter (R77). -/
structure Params where
  /-- `CH[TB]`, `CH[NT]`, `CH[NA]`, `CH[IJ]` (30_encoding.md R74) -/
  chTB : CHCode
  chNT : CHCode
  chNA : CHCode
  chIJ : CHCode
  /-- `FH[...]` (30_encoding.md R75) -/
  fhTB   : FHCode
  fhNT   : FHCode
  fhUJ   : FHCode
  fhIJ   : FHCode
  fhTRAP : FHCode
  fhSYNC : FHCode
  fhVAL  : FHCode
  fhRES  : FHCode
  /-- `FH[HIT]`, `FH[MISS]` (30_encoding.md R76) -/
  fhHIT  : FHCode
  fhMISS : FHCode
  /-- `TT[...]` (30_encoding.md R77) -/
  ttEXCEPTION  : TTCode
  ttINTERRUPT  : TTCode
  ttTRAPRETURN : TTCode
  /-- `MODE_POR`: the mode after construction (10_state.md R28) -/
  modePor : BranchMode
  /-- `ASSERT_MODE`: what an invariant violation does (60_exceptions.md R247) -/
  assertMode : AssertMode
  deriving DecidableEq, Repr

/-- FREE VALUE (log 21). What `enabled` and `mode` hold after one write of the register view TE_CTRL that sets the
reset strobe together with some of bits [2:0]: "left to the implementer of such a register" (92_eei_decisions.md D18).
It may depend on the bits written there and on the two fields before. Nothing in Lean can evaluate it. -/
opaque Config.teCtrlStrobeWrite : BitVec 3 → Bool → BranchMode → Bool × BranchMode

end Sys2Proof
end

