-- ==== Sys2Proof/Machine/Codes.lean ====
section
/-! DEFINITION. The numbers: default code values of the parameters (30_encoding.md R74 to R77), the numbering of kinds,
modes and states (R97, R98), the empty event (10_state.md R24). They are here, and not in Config.lean, so that a later
repair can mend them: the spec calls most of them unaudited. -/

namespace Sys2Proof.Machine

/-- The defaults of 00_scope.md R6. The values of CH, FH and TT are PRESUMED (log 6: the spec marks them "from general
knowledge, not in source"); the aliasing of HIT and MISS is log 7; MODE_POR is log 10, ASSERT_MODE log 12. -/
def defaultParams : Params where
  chTB := 0b00#2
  chNT := 0b01#2
  chNA := 0b10#2
  chIJ := 0b11#2
  fhTB := 0b000#3
  fhNT := 0b001#3
  fhUJ := 0b010#3
  fhIJ := 0b011#3
  fhTRAP := 0b100#3
  fhSYNC := 0b101#3
  fhVAL := 0b110#3
  fhRES := 0b111#3
  fhHIT := 0b000#3
  fhMISS := 0b001#3
  ttEXCEPTION := 0b001#3
  ttINTERRUPT := 0b010#3
  ttTRAPRETURN := 0b100#3
  modePor := .target
  assertMode := .fault

/-- `TT[NONE]`: "0 if not a trap" (30_encoding.md R77). -/
def ttNone : TTCode := 0#3

/-- The default number of predictor cells (00_scope.md R6). -/
def defaultN : Nat := 1024

/-- `EMPTY_EVENT` (10_state.md R24). The kind follows from the source; the two zeros are the spec's choice (log 9). -/
def emptyEvent : IngressEvent where
  address := 0
  timestamp := 0
  kind := .none

/-- `WeakNotTaken`, the reset value of every predictor cell (10_state.md R35). -/
def weakNotTaken : Cell := 1#2

/-- The port code of an event kind (30_encoding.md R97; the numbers are the spec's own, log 8). -/
def kindCode : EventKind → BitVec 3
  | .none => 0#3
  | .branchTaken => 1#3
  | .branchNotTaken => 2#3
  | .jumpInferable => 3#3
  | .jumpUninferable => 4#3
  | .exception => 5#3
  | .interrupt => 6#3
  | .trapReturn => 7#3

/-- The event kind of a port code: all eight values are legal (30_encoding.md R97). -/
def kindOfCode (c : BitVec 3) : EventKind :=
  if c = 0#3 then .none
  else if c = 1#3 then .branchTaken
  else if c = 2#3 then .branchNotTaken
  else if c = 3#3 then .jumpInferable
  else if c = 4#3 then .jumpUninferable
  else if c = 5#3 then .exception
  else if c = 6#3 then .interrupt
  else .trapReturn

/-- The code of a mode (10_state.md R28; log 8). -/
def modeCode : BranchMode → BitVec 2
  | .target => 0#2
  | .history => 1#2
  | .prediction => 2#2
  | .reserved => 3#2

/-- The mode of a code (10_state.md R28; log 8). -/
def modeOfCode (c : BitVec 2) : BranchMode :=
  if c = 0#2 then .target
  else if c = 1#2 then .history
  else if c = 2#2 then .prediction
  else .reserved

/-- The code of the encoder state (10_state.md R26; log 8). Nothing observes it. -/
def stateCode : EncoderState → BitVec 1
  | .idle => 0#1
  | .data => 1#1

/-- The full-header code of a Direct packet (43_target_mode.md R193, `FH[k]`). -/
def directHeader (p : Params) : DirectKind → FHCode
  | .tb => p.fhTB
  | .nt => p.fhNT
  | .ij => p.fhIJ
  | .miss => p.fhMISS

/-- The trap-type code of a reason (43_target_mode.md R196, `TT[t]`). -/
def trapCode (p : Params) : TrapReason → TTCode
  | .exception => p.ttEXCEPTION
  | .interrupt => p.ttINTERRUPT
  | .trapReturn => p.ttTRAPRETURN

end Sys2Proof.Machine
end

