-- ==== Sys2Proof/Machine/Codec.lean ====
section
/-! DEFINITION. The packet codec (41_codec.md R130 to R139): pure functions from values to bytes, each one a row of the
opcode table, and the matching varint decoder. -/

namespace Sys2Proof.Machine

/-- The largest `k < n` with `x[k] = 1`, or -1. -/
def highestBitBelow (x : U64) : Nat → Int
  | 0 => -1
  | k + 1 => if x.getLsbD k then (k : Int) else highestBitBelow x k

/-- R130: -1 for 0, else the index of the highest set bit. -/
def mostSignificantBitIndex (x : U64) : Int :=
  highestBitBelow x 64

/-- R131: `msb / 7 + 1`, the division truncating toward zero. -/
def byteCount (msb : Int) : Int :=
  msb.tdiv 7 + 1

/-- Byte `i` of the `n` bytes of a varint (R132): seven payload bits, bit 7 set on the last byte only. -/
def varintByte (value : U64) (n i : Nat) : Byte :=
  let b : Byte := (value >>> (7 * i)).setWidth 8 &&& 0x7F#8
  if i + 1 = n then b ||| 0x80#8 else b

/-- The number of bytes of a value's varint (R131, R132). -/
def varintLength (value : U64) : Nat :=
  (byteCount (mostSignificantBitIndex value)).toNat

/-- R132. -/
def encodeVarint (value : U64) : List Byte :=
  (List.range (varintLength value)).map (varintByte value (varintLength value))

/-- R133: the value fits the six bits of a compressed byte. -/
def isCompressible (delta : U64) : Bool :=
  decide (mostSignificantBitIndex delta < 6)

/-- R134. -/
def encodeCompressed (compressedHeader : CHCode) (smallValue : SmallValue) : Byte :=
  compressedHeader.setWidth 8 ||| (smallValue.setWidth 8 <<< 2)

/-- R135. -/
def encodeFullHeader (compressedHeader : CHCode) (fullHeader : FHCode) (trapType : TTCode) : Byte :=
  compressedHeader.setWidth 8 ||| (fullHeader.setWidth 8 <<< 2) ||| (trapType.setWidth 8 <<< 5)

/-- R136. -/
def compressedHeaderFor (p : Params) (fullHeader : FHCode) : CHCode :=
  if fullHeader = p.fhTB then p.chTB
  else if fullHeader = p.fhNT then p.chNT
  else if fullHeader = p.fhIJ then p.chIJ
  else p.chNA

/-- R138: the bytes of a packet record in a given shape. -/
def encodePacketRecord (p : Params) (r : TracePacket) : Shape → List Byte
  | .compressed => [encodeCompressed (compressedHeaderFor p r.fullHeader) (r.timestampOrCount.setWidth 6)]
  | .full1 => encodeFullHeader p.chNA r.fullHeader ttNone :: encodeVarint r.timestampOrCount
  | .full2 =>
    encodeFullHeader p.chNA r.fullHeader r.trapType :: (encodeVarint r.address ++ encodeVarint r.timestampOrCount)

/-- R81: the form of a Direct or Hit packet is chosen by its value alone. -/
def shapeFor (value : U64) : Shape :=
  if isCompressible value then .compressed else .full1

/-- The record of a Direct or Hit packet (43_target_mode.md R193, 44_prediction_mode.md R213): no trap type, the address
"unused (set to 0)". `encodePacketRecord` chooses the compressed header itself. -/
def shortRecord (p : Params) (fullHeader : FHCode) (value : U64) : TracePacket where
  compressedHeader := if isCompressible value then compressedHeaderFor p fullHeader else p.chNA
  fullHeader := fullHeader
  trapType := ttNone
  address := 0
  timestampOrCount := value

/-- The record of a Sync, UJ or Trap packet (42_encoder_control.md R171, 43_target_mode.md R195, R196): never compressed. -/
def longRecord (p : Params) (fullHeader : FHCode) (trapType : TTCode) (address timestamp : U64) : TracePacket where
  compressedHeader := p.chNA
  fullHeader := fullHeader
  trapType := trapType
  address := address
  timestampOrCount := timestamp

/-- The bytes of a Direct or Hit packet (R193, R213): the form follows the value. -/
def shortBytes (p : Params) (fullHeader : FHCode) (value : U64) : List Byte :=
  encodePacketRecord p (shortRecord p fullHeader value) (shapeFor value)

/-- The bytes of a Sync, UJ or Trap packet (R171, R195, R196). -/
def longBytes (p : Params) (fullHeader : FHCode) (trapType : TTCode) (address timestamp : U64) : List Byte :=
  encodePacketRecord p (longRecord p fullHeader trapType address timestamp) .full2

/-- R139, the matching decoder, as a natural number: read up to and including the first byte with bit 7 set, groups of
seven bits, least significant first. `none` if no such byte comes. -/
def decodeVarintNat : List Byte → Option (Nat × List Byte)
  | [] => none
  | b :: rest =>
    if b.getLsbD 7 then some ((b &&& 0x7F#8).toNat, rest)
    else
      match decodeVarintNat rest with
      | some (v, rest') => some ((b &&& 0x7F#8).toNat + 128 * v, rest')
      | none => none

end Sys2Proof.Machine
end

