-- ==== Sys2Proof/WellFormed.lean ====
section
/-! DEFINITION. The checks on syntax: what the spec says an operand's value may be. The meanings do not depend on them. -/

namespace Sys2Proof

/-- The codes are distinct (30_encoding.md R74, R75, R77; 92_eei_decisions.md D5, D6, D8) and Hit and Miss are second
names of TB and NT (30_encoding.md R76). -/
abbrev Params.wf (p : Params) : Prop :=
  [p.chTB, p.chNT, p.chNA, p.chIJ].Nodup ∧
  [p.fhTB, p.fhNT, p.fhUJ, p.fhIJ, p.fhTRAP, p.fhSYNC, p.fhVAL, p.fhRES].Nodup ∧
  [0#3, p.ttEXCEPTION, p.ttINTERRUPT, p.ttTRAPRETURN].Nodup ∧
  p.fhHIT = p.fhTB ∧ p.fhMISS = p.fhNT

/-- The address field of a Sync, UJ or Trap packet is at most 63 bits wide, because it was shifted right by one
(30_encoding.md R79). Every other field is any `u64`. -/
abbrev Packet.wf : Packet → Prop
  | .sync a _ => a.toNat < 2 ^ 63
  | .uj a _ => a.toNat < 2 ^ 63
  | .trap _ a _ => a.toNat < 2 ^ 63
  | .tb _ | .nt _ | .ij _ | .hit _ | .miss _ => True

/-- The packets each mode can put into the stream, besides Sync (30_encoding.md R78, column "emitted in"). -/
abbrev Packet.inMode (m : BranchMode) : Packet → Prop
  | .sync _ _ => True
  | .tb _ | .nt _ => m = .target
  | .hit _ | .miss _ => m = .prediction
  | .ij _ | .uj _ _ | .trap _ _ _ => m = .target ∨ m = .prediction

/-- A shape fits a packet record when its value is in the shape's range (41_codec.md R138): below 64 in the compressed
form, 64 or more in the one-varint form, an address of at most 63 bits in the two-varint form (30_encoding.md R79). -/
abbrev Shape.fits (s : Shape) (p : TracePacket) : Prop :=
  match s with
  | .compressed => p.timestampOrCount.toNat < 64
  | .full1 => 64 ≤ p.timestampOrCount.toNat
  | .full2 => p.address.toNat < 2 ^ 63

/-- The operand checks of the operation rows: `byteCount` takes a result of `mostSignificantBitIndex`, -1 .. 63
(41_codec.md R131), and `EncodePacket` a shape that fits its record (R138). `construct` with N = 0 is not ill formed:
it is an operation with an outcome of its own (60_exceptions.md R244). -/
abbrev Instr.wf : Instr → Prop
  | .codecByteCount msb => -1 ≤ msb ∧ msb ≤ 63
  | .codecEncodePacket p shape => shape.fits p
  | .sync | .tbC | .tbF | .ntC | .ntF | .ijC | .ijF | .uj | .trapE | .trapI | .trapR => True
  | .hitC | .hitF | .missC | .missF | .val | .res => True
  | .construct _ | .reset | .setEnabled _ | .getEnabled | .getMode | .setMode _ | .pushIngress _ => True
  | .predictorReset | .predictorIndex _ | .predictorPredict _ _ | .predictorPeek _ => True
  | .predictorIncrement _ | .predictorDecrement _ | .predictorIsTaken _ => True
  | .codecMostSignificantBitIndex _ | .codecEncodeVarint _ | .codecIsCompressible _ => True
  | .codecEncodeCompressed _ _ | .codecEncodeFullHeader _ _ _ | .codecCompressedHeaderFor _ => True
  | .eventNONE _ _ | .eventBT _ _ | .eventBNT _ _ | .eventIJ _ _ => True
  | .eventUJ _ _ | .eventEXC _ _ | .eventINT _ _ | .eventRET _ _ => True

end Sys2Proof
end

