-- ==== Sys2Proof/Decode.lean ====
section
/-! DEFINITION. Decoding, total on any bytes and rejecting by name, and encoding. Two bit patterns exist in the spec:
the first byte of a packet (30_encoding.md R70 to R78) and the 3-bit kind code of the ingress port (R97). The operation
rows have none, so no word decodes to one and they have no encoding (log 3). -/

namespace Sys2Proof

open Sys2Proof.Machine

/-- Why a decoder rejects its input. -/
inductive DecodeError where
  /-- No byte is left. -/
  | endOfInput
  /-- The byte at the ingress port is no 3-bit kind code (R97). -/
  | notAKindCode
  /-- The event's address or timestamp is cut short (log 5). -/
  | shortEvent
  /-- A full header that no rule emits: a trap type outside a Trap packet, or none inside one (R91). -/
  | reservedHeader
  /-- A `VAL` or `RES` packet, whose payload format is unknown (R90, 93_implementation_defined.md U3). -/
  | reservedPacket
  /-- The header is none of the codes (it cannot happen when the codes are distinct). -/
  | unknownHeader
  /-- The stream's mode is one of the two that have no data step, so nothing but Sync can stand in it (R96). -/
  | modeHasNoDataStep
  /-- No byte with bit 7 set ends the varint (R73). -/
  | unterminatedVarint
  /-- The varint's value is no `u64` (log 22). -/
  | varintTooLarge
  deriving DecidableEq, Repr

/-- The answer of a decoder: what was read and the bytes left, or the reason for rejecting. -/
inductive Decoded (α : Type) where
  | ok (a : α) (rest : List Byte)
  | bad (e : DecodeError)
  deriving DecidableEq, Repr

/-! ## The ingress port -/

/-- Eight bytes, least significant first (log 5). -/
def wordBytes (w : U64) : List Byte :=
  [w.extractLsb' 0 8, w.extractLsb' 8 8, w.extractLsb' 16 8, w.extractLsb' 24 8,
   w.extractLsb' 32 8, w.extractLsb' 40 8, w.extractLsb' 48 8, w.extractLsb' 56 8]

/-- The word of eight bytes, least significant first, and the bytes left (log 5). -/
def readWord : List Byte → Option (U64 × List Byte)
  | b0 :: b1 :: b2 :: b3 :: b4 :: b5 :: b6 :: b7 :: rest =>
    some (b7 ++ b6 ++ b5 ++ b4 ++ b3 ++ b2 ++ b1 ++ b0, rest)
  | _ => none

/-- The event row of a kind (R97). -/
def eventRow (k : EventKind) (address timestamp : U64) : Instr :=
  match k with
  | .none => .eventNONE address timestamp
  | .branchTaken => .eventBT address timestamp
  | .branchNotTaken => .eventBNT address timestamp
  | .jumpInferable => .eventIJ address timestamp
  | .jumpUninferable => .eventUJ address timestamp
  | .exception => .eventEXC address timestamp
  | .interrupt => .eventINT address timestamp
  | .trapReturn => .eventRET address timestamp

/-- An event at the ingress port: a byte with the kind code in bits [2:0] and zeros above it, then the address, then
the timestamp (the fields are R21's and D3's, the byte layout is log 5). -/
def decodeEvent : List Byte → Decoded Instr
  | [] => .bad .endOfInput
  | b :: rest =>
    if b.extractLsb' 3 5 ≠ 0#5 then .bad .notAKindCode
    else
      match readWord rest with
      | none => .bad .shortEvent
      | some (address, rest1) =>
        match readWord rest1 with
        | none => .bad .shortEvent
        | some (timestamp, rest2) => .ok (eventRow (kindOfCode (b.extractLsb' 0 3)) address timestamp) rest2

/-! ## The first byte of a packet -/

/-- The row of a branch code, which the mode settles (R76, R86): TB or NT in Target Mode, Hit or Miss in Prediction
Mode. -/
def branchRow (m : BranchMode) (inTarget inPrediction : Instr) : Except DecodeError Instr :=
  match m with
  | .target => .ok inTarget
  | .prediction => .ok inPrediction
  | .history | .reserved => .error .modeHasNoDataStep

/-- A row that both modes emit (R78). -/
def sharedRow (m : BranchMode) (i : Instr) : Except DecodeError Instr :=
  branchRow m i i

/-- The row of a full header that carries no trap type (R78, R82). -/
def plainRow (p : Params) (m : BranchMode) (fh : FHCode) : Except DecodeError Instr :=
  if fh = p.fhSYNC then .ok .sync
  else if fh = p.fhTB then branchRow m .tbF .hitF
  else if fh = p.fhNT then branchRow m .ntF .missF
  else if fh = p.fhIJ then sharedRow m .ijF
  else if fh = p.fhUJ then sharedRow m .uj
  else .error .unknownHeader

/-- The row of a Trap header (R77, R78): a trap type that is none of the three is reserved (R91). -/
def trapRow (p : Params) (m : BranchMode) (tt : TTCode) : Except DecodeError Instr :=
  if tt = p.ttEXCEPTION then sharedRow m .trapE
  else if tt = p.ttINTERRUPT then sharedRow m .trapI
  else if tt = p.ttTRAPRETURN then sharedRow m .trapR
  else .error .reservedHeader

/-- The row of a full header, by its fields FH and TT (R72, R78, R90, R91). -/
def fullHeaderRow (p : Params) (m : BranchMode) (fh : FHCode) (tt : TTCode) : Except DecodeError Instr :=
  if fh = p.fhVAL then .ok .val
  else if fh = p.fhRES then .ok .res
  else if fh = p.fhTRAP then trapRow p m tt
  else if tt ≠ ttNone then .error .reservedHeader
  else plainRow p m fh

/-- The row that the first byte of a packet names (R70, R71, R72, R78, R82), in a stream of mode `m`. -/
def decodeHeader (p : Params) (m : BranchMode) (b : Byte) : Except DecodeError Instr :=
  let ch : CHCode := b.extractLsb' 0 2
  if ch = p.chTB then branchRow m .tbC .hitC
  else if ch = p.chNT then branchRow m .ntC .missC
  else if ch = p.chIJ then sharedRow m .ijC
  else if ch = p.chNA then fullHeaderRow p m (b.extractLsb' 2 3) (b.extractLsb' 5 3)
  else .error .unknownHeader

/-! ## Words of the table -/

/-- The instruction that the bytes name, in a space (log 4). A packet row is named by its first byte; the bits [7:2] of
a compressed byte and the bytes after a full header are what its generator writes, not operands of the row. -/
def decodeIn (p : Params) (space : WordSpace) (bytes : List Byte) : Decoded Instr :=
  match space with
  | .ingress => decodeEvent bytes
  | .stream m =>
    match bytes with
    | [] => .bad .endOfInput
    | b :: rest =>
      match decodeHeader p m b with
      | .ok i => .ok i rest
      | .error e => .bad e

/-- What a request asks for. A word of the table is read at the default codes, the ones the table's words are written
with (spec/opcode_table.json, every packet row's note). -/
def readRequest : Request → Decoded Instr
  | .call i => .ok i []
  | .word space bytes => decodeIn defaultParams space bytes

/-! ## Packets with their fields: the checking decoder of R82 and R139 -/

/-- A varint field as a `u64` (R139). -/
def decodeVarint (bytes : List Byte) : Decoded U64 :=
  match decodeVarintNat bytes with
  | none => .bad .unterminatedVarint
  | some (v, rest) => if v < 2 ^ 64 then .ok (BitVec.ofNat 64 v) rest else .bad .varintTooLarge

/-- A packet with one varint field. -/
def decodeField1 (mk : U64 → Packet) (bytes : List Byte) : Decoded Packet :=
  match decodeVarint bytes with
  | .ok v rest => .ok (mk v) rest
  | .bad e => .bad e

/-- A packet with two varint fields, the address first (20_memory.md R52). -/
def decodeField2 (mk : U64 → U64 → Packet) (bytes : List Byte) : Decoded Packet :=
  match decodeVarint bytes with
  | .ok v rest => decodeField1 (mk v) rest
  | .bad e => .bad e

/-- The value in bits [7:2] of a compressed byte (R71). -/
def smallField (b : Byte) : U64 :=
  (b.extractLsb' 2 6).setWidth 64

/-- The packet of a row, its first byte and the bytes after it (R82). Rows that are no packets do not come from a
header; `VAL` and `RES` have no known payload (U3). -/
def decodeFields (i : Instr) (b : Byte) (rest : List Byte) : Decoded Packet :=
  match i with
  | .tbC => .ok (.tb (smallField b)) rest
  | .ntC => .ok (.nt (smallField b)) rest
  | .ijC => .ok (.ij (smallField b)) rest
  | .hitC => .ok (.hit (smallField b)) rest
  | .missC => .ok (.miss (smallField b)) rest
  | .tbF => decodeField1 .tb rest
  | .ntF => decodeField1 .nt rest
  | .ijF => decodeField1 .ij rest
  | .hitF => decodeField1 .hit rest
  | .missF => decodeField1 .miss rest
  | .sync => decodeField2 .sync rest
  | .uj => decodeField2 .uj rest
  | .trapE => decodeField2 (.trap .exception) rest
  | .trapI => decodeField2 (.trap .interrupt) rest
  | .trapR => decodeField2 (.trap .trapReturn) rest
  | .val | .res => .bad .reservedPacket
  | .construct _ | .reset | .setEnabled _ | .getEnabled | .getMode | .setMode _ | .pushIngress _ => .bad .unknownHeader
  | .predictorReset | .predictorIndex _ | .predictorPredict _ _ | .predictorPeek _ => .bad .unknownHeader
  | .predictorIncrement _ | .predictorDecrement _ | .predictorIsTaken _ => .bad .unknownHeader
  | .codecMostSignificantBitIndex _ | .codecByteCount _ | .codecEncodeVarint _ => .bad .unknownHeader
  | .codecIsCompressible _ | .codecEncodeCompressed _ _ | .codecEncodeFullHeader _ _ _ => .bad .unknownHeader
  | .codecCompressedHeaderFor _ | .codecEncodePacket _ _ => .bad .unknownHeader
  | .eventNONE _ _ | .eventBT _ _ | .eventBNT _ _ | .eventIJ _ _ => .bad .unknownHeader
  | .eventUJ _ _ | .eventEXC _ _ | .eventINT _ _ | .eventRET _ _ => .bad .unknownHeader

/-- One packet off the front of a stream of mode `m` (R82, R86). -/
def decodePacket (p : Params) (m : BranchMode) : List Byte → Decoded Packet
  | [] => .bad .endOfInput
  | b :: rest =>
    match decodeHeader p m b with
    | .ok i => decodeFields i b rest
    | .error e => .bad e

/-- Up to `k` packets off the front of a stream, until no byte is left. -/
def decodeStream (p : Params) (m : BranchMode) : Nat → List Byte → Decoded (List Packet)
  | _, [] => .ok [] []
  | 0, b :: rest => .ok [] (b :: rest)
  | k + 1, b :: rest =>
    match decodePacket p m (b :: rest) with
    | .bad e => .bad e
    | .ok q rest1 =>
      match decodeStream p m k rest1 with
      | .ok qs rest2 => .ok (q :: qs) rest2
      | .bad e => .bad e

/-! ## Encoding -/

/-- The bytes of a packet (R78, R80, R81; 41_codec.md R138). -/
def encodePacket (p : Params) : Packet → List Byte
  | .sync a t => longBytes p p.fhSYNC ttNone a t
  | .tb d => shortBytes p (directHeader p .tb) d
  | .nt d => shortBytes p (directHeader p .nt) d
  | .ij d => shortBytes p (directHeader p .ij) d
  | .uj a d => longBytes p p.fhUJ ttNone a d
  | .trap t a d => longBytes p p.fhTRAP (trapCode p t) a d
  | .hit c => shortBytes p p.fhHIT c
  | .miss d => shortBytes p (directHeader p .miss) d

/-- The bytes of an event at the ingress port (log 5). -/
def encodeEvent (k : EventKind) (address timestamp : U64) : List Byte :=
  (kindCode k).setWidth 8 :: (wordBytes address ++ wordBytes timestamp)

/-- The word of an instruction: the first byte of a packet row, with zeros in the bits its row leaves open, and the
whole event of an event row. The operation rows have no bit pattern (log 3). -/
def encode (p : Params) : Instr → Option (List Byte)
  | .sync => some [encodeFullHeader p.chNA p.fhSYNC ttNone]
  | .tbC => some [encodeCompressed p.chTB 0]
  | .tbF => some [encodeFullHeader p.chNA p.fhTB ttNone]
  | .ntC => some [encodeCompressed p.chNT 0]
  | .ntF => some [encodeFullHeader p.chNA p.fhNT ttNone]
  | .ijC => some [encodeCompressed p.chIJ 0]
  | .ijF => some [encodeFullHeader p.chNA p.fhIJ ttNone]
  | .uj => some [encodeFullHeader p.chNA p.fhUJ ttNone]
  | .trapE => some [encodeFullHeader p.chNA p.fhTRAP p.ttEXCEPTION]
  | .trapI => some [encodeFullHeader p.chNA p.fhTRAP p.ttINTERRUPT]
  | .trapR => some [encodeFullHeader p.chNA p.fhTRAP p.ttTRAPRETURN]
  | .hitC => some [encodeCompressed (compressedHeaderFor p p.fhHIT) 0]
  | .hitF => some [encodeFullHeader p.chNA p.fhHIT ttNone]
  | .missC => some [encodeCompressed (compressedHeaderFor p p.fhMISS) 0]
  | .missF => some [encodeFullHeader p.chNA p.fhMISS ttNone]
  | .val => some [encodeFullHeader p.chNA p.fhVAL ttNone]
  | .res => some [encodeFullHeader p.chNA p.fhRES ttNone]
  | .eventNONE a t => some (encodeEvent .none a t)
  | .eventBT a t => some (encodeEvent .branchTaken a t)
  | .eventBNT a t => some (encodeEvent .branchNotTaken a t)
  | .eventIJ a t => some (encodeEvent .jumpInferable a t)
  | .eventUJ a t => some (encodeEvent .jumpUninferable a t)
  | .eventEXC a t => some (encodeEvent .exception a t)
  | .eventINT a t => some (encodeEvent .interrupt a t)
  | .eventRET a t => some (encodeEvent .trapReturn a t)
  | .construct _ | .reset | .setEnabled _ | .getEnabled | .getMode | .setMode _ | .pushIngress _ => none
  | .predictorReset | .predictorIndex _ | .predictorPredict _ _ | .predictorPeek _ => none
  | .predictorIncrement _ | .predictorDecrement _ | .predictorIsTaken _ => none
  | .codecMostSignificantBitIndex _ | .codecByteCount _ | .codecEncodeVarint _ => none
  | .codecIsCompressible _ | .codecEncodeCompressed _ _ | .codecEncodeFullHeader _ _ _ => none
  | .codecCompressedHeaderFor _ | .codecEncodePacket _ _ => none

/-- Where a row's word is read (R78, column "emitted in"; R90 for the two reserved headers; R97 for the events). -/
abbrev Instr.readIn (space : WordSpace) : Instr → Prop
  | .sync | .val | .res => ∃ m, space = .stream m
  | .tbC | .tbF | .ntC | .ntF => space = .stream .target
  | .hitC | .hitF | .missC | .missF => space = .stream .prediction
  | .ijC | .ijF | .uj | .trapE | .trapI | .trapR => space = .stream .target ∨ space = .stream .prediction
  | .eventNONE _ _ | .eventBT _ _ | .eventBNT _ _ | .eventIJ _ _ => space = .ingress
  | .eventUJ _ _ | .eventEXC _ _ | .eventINT _ _ | .eventRET _ _ => space = .ingress
  | .construct _ | .reset | .setEnabled _ | .getEnabled | .getMode | .setMode _ | .pushIngress _ => False
  | .predictorReset | .predictorIndex _ | .predictorPredict _ _ | .predictorPeek _ => False
  | .predictorIncrement _ | .predictorDecrement _ | .predictorIsTaken _ => False
  | .codecMostSignificantBitIndex _ | .codecByteCount _ | .codecEncodeVarint _ => False
  | .codecIsCompressible _ | .codecEncodeCompressed _ _ | .codecEncodeFullHeader _ _ _ => False
  | .codecCompressedHeaderFor _ | .codecEncodePacket _ _ => False

/-! ## Operation scripts -/

/-- The operation of a script line (R99). -/
def scriptInstr : ScriptLine → Instr
  | .new n => .construct n
  | .reset => .reset
  | .enable => .setEnabled true
  | .disable => .setEnabled false
  | .mode m => .setMode m
  | .push address timestamp kind => .pushIngress ⟨address, timestamp, kind⟩
  | .peek address => .predictorPeek address

/-! ## The table's numbering, for the host -/

/-- The first 17 bytes of a table word (the longest, an event, has 17), least significant first; zeros above `nbits`. -/
def tableBytes (nbits w : Nat) : List Byte :=
  (List.range 17).map (fun k => BitVec.ofNat 8 (w % 2 ^ nbits / 2 ^ (8 * k)))

/-- Where a table word is read (log 4): a first byte that is a kind code is the ingress port's, the only encoding the
block itself reads; any other is the first byte of a packet in a Target Mode stream. -/
def tableSpace (bytes : List Byte) : WordSpace :=
  match decodeEvent bytes with
  | .ok _ _ => .ingress
  | .bad _ => .stream .target

/-- The request that hands over a table word. -/
def tableRequest (nbits w : Nat) : Request :=
  .word (tableSpace (tableBytes nbits w)) (tableBytes nbits w)

/-- The instruction the decoder reads from a table word. -/
def decodeTableWord (nbits w : Nat) : Option Instr :=
  match readRequest (tableRequest nbits w) with
  | .ok i _ => some i
  | .bad _ => none

end Sys2Proof
end

