-- ==== Sys2Proof/Machine/State.lean ====
section
/-! DEFINITION. The state of the block (10_state.md R20) as plain data, the ways a step can stop, and the state after
reset. -/

namespace Sys2Proof.Machine

/-- The faults the block records (60_exceptions.md R240). `ConstructZeroTable` leaves no block to record it and is a
`Fault`; `AtMostOnePacket` cannot occur (R173); `SinkWriteError` is outside the model (R246). -/
inductive BlockFault where
  /-- R241, raised by the Hit arm. -/
  | hitInvariant
  /-- R242, raised by the Miss arm. -/
  | missInvariant
  deriving DecidableEq, Repr

/-- The value an operation returns (log 17). -/
inductive Ret where
  /-- no result -/
  | unit
  | bool (b : Bool)
  | mode (m : BranchMode)
  | index (i : Nat)
  | cell (c : Cell)
  /-- an `i32` -/
  | int (i : Int)
  | bytes (bs : List Byte)
  | header (c : CHCode)
  deriving DecidableEq, Repr

/-- The predictor table: the cells that differ from `WeakNotTaken`, by index, indexes strictly rising (log 20). -/
abbrev Table := List (Nat × Cell)

/-- Every piece of state the spec gives the block (R20), its parameters, and three fields of the model's own. -/
structure State where
  /-- the parameters a model takes as arguments (00_scope.md R6; log 26) -/
  params : Params
  /-- `N`, the number of predictor cells (00_scope.md R6) -/
  n : Nat
  /-- R26 -/
  st : EncoderState
  /-- R27 -/
  enabled : Bool
  /-- R28 -/
  mode : BranchMode
  /-- the current event (R22) -/
  stage0 : IngressEvent
  /-- the event of the previous call (R22) -/
  stage1 : IngressEvent
  /-- R31 -/
  prevTimestamp : U64
  /-- R32 -/
  hitCount : U64
  /-- R33 -/
  missFlag : Bool
  /-- R35 -/
  tab : Table
  /-- all bytes appended since construction, the first on the left (20_memory.md R54) -/
  sink : List Byte
  /-- the sticky fault record (60_exceptions.md R247) -/
  fault : Option BlockFault
  /-- THE MODEL'S OWN (log 14): `mode` was changed since the open segment opened (42_encoder_control.md R166(b)) -/
  modeChanged : Bool
  /-- THE MODEL'S OWN (log 17): the value the latest operation returned -/
  ret : Ret
  /-- THE MODEL'S OWN (log 2): the owner's pending requests, the next one first -/
  inbox : List Request
  deriving DecidableEq, Repr

/-- A step that stops because no block is left. -/
inductive Fault where
  /-- Raised by `construct` with N = 0 (60_exceptions.md R244): no block comes to exist. Safe: the spec says the same. -/
  | constructZeroTable
  deriving DecidableEq, Repr

/-- A step to which the spec gives no result. -/
inductive Refusal where
  /-- Raised by `exec` for an instruction that has no meaning yet. Safe. No arm is left that raises it. -/
  | notModelled (mnemonic : String)
  /-- Raised by the packet rows `VAL` and `RES`, which are reserved and never emitted (30_encoding.md R90). Safe. -/
  | reservedPacket
  /-- Raised by a data step under `HistoryMode` or `Reserved` (30_encoding.md R96). Safe. -/
  | reservedMode
  /-- Raised by a data step of a segment in which `mode` was changed (42_encoder_control.md R166(b)). Safe. -/
  | modeChangedMidSegment
  /-- Raised by every operation on a faulted block but `construct` and the pure functions (60_exceptions.md R247; log 13), and
  by a write of the register view (log 28). Safe. -/
  | faultedBlock
  /-- Raised by a step whose next request is a word that decodes to nothing. Safe. -/
  | undecodable (e : DecodeError)
  deriving DecidableEq, Repr

/-- The outcome of a step of the block. -/
abbrev Result := Host.Outcome State Fault Refusal

/-- A block right after `construct(n)` under given parameters (10_state.md R38, column "after construction";
42_encoder_control.md R160), with a queue of requests. -/
def State.constructed (params : Params) (n : Nat) (inbox : List Request) : State where
  params := params
  n := n
  st := .idle
  enabled := false
  mode := params.modePor
  stage0 := emptyEvent
  stage1 := emptyEvent
  prevTimestamp := 0
  hitCount := 0
  missFlag := false
  tab := []
  sink := []
  fault := none
  modeChanged := false
  ret := .unit
  inbox := inbox

/-- The machine right after reset: a block constructed with the default parameters and N = 1024 (70_reset_and_hazards.md
R270), nothing requested of it. -/
def State.reset : State :=
  State.constructed defaultParams defaultN []

end Sys2Proof.Machine
end

