-- ==== Sys2Proof/Machine/Flags.lean ====
section
/-! DEFINITION. The one-bit values of the block: what a kind does to the flags of a call (44_prediction_mode.md R211), the
counters' direction bit (40_predictor.md R116), the two invariants (R213, R214). -/

namespace Sys2Proof.Machine

/-- `kind in {BranchTaken, BranchNotTaken}` (R211). -/
def isBranch : EventKind → Bool
  | .branchTaken => true
  | .branchNotTaken => true
  | .none => false
  | .jumpInferable => false
  | .jumpUninferable => false
  | .exception => false
  | .interrupt => false
  | .trapReturn => false

/-- `kind in {JumpInferable, JumpUninferable, Exception, Interrupt, TrapReturn}`: the kinds that force a flush (R211). -/
def isJumpOrTrap : EventKind → Bool
  | .jumpInferable => true
  | .jumpUninferable => true
  | .exception => true
  | .interrupt => true
  | .trapReturn => true
  | .none => false
  | .branchTaken => false
  | .branchNotTaken => false

/-- `isTaken(s) = s >= 2`, that is `s[1] = 1` (40_predictor.md R116). -/
def cellIsTaken (c : Cell) : Bool :=
  c.getLsbD 1

/-- `increment`, saturating at 3 (40_predictor.md R114). -/
def cellIncrement (c : Cell) : Cell :=
  if c = 3#2 then 3#2 else c + 1#2

/-- `decrement`, saturating at 0 (40_predictor.md R115). -/
def cellDecrement (c : Cell) : Cell :=
  if c = 0#2 then 0#2 else c - 1#2

/-- A cell moved toward the actual outcome (40_predictor.md R112). -/
def cellToward (takenActual : Bool) (c : Cell) : Cell :=
  if takenActual then cellIncrement c else cellDecrement c

/-- Whether the prediction made from a cell is right (40_predictor.md R112). -/
def cellHits (takenActual : Bool) (c : Cell) : Bool :=
  cellIsTaken c == takenActual

/-- The Hit packet's invariant (44_prediction_mode.md R213, 60_exceptions.md R241). -/
def hitInvariant (s : State) : Bool :=
  (isBranch s.stage1.kind || s.stage1.kind == .none) && !s.missFlag

/-- The Miss packet's invariant (44_prediction_mode.md R214, 60_exceptions.md R242). -/
def missInvariant (s : State) : Bool :=
  isBranch s.stage1.kind && (s.hitCount == 0 || s.hitCount == 1)

end Sys2Proof.Machine
end

