-- ==== Sys2Proof/Machine/Operands.lean ====
section
/-! DEFINITION. The values a packet's fields take from the state (30_encoding.md R80), and the predictor index
(20_memory.md R51). -/

namespace Sys2Proof.Machine

/-- `index(pc) = (pc >> 1) mod N` (40_predictor.md R111). -/
def predictorIndex (n : Nat) (pc : U64) : Nat :=
  (pc >>> 1).toNat % n

/-- The delta timestamp of every packet but Sync and Hit: `stage1.timestamp - prevTimestamp`, modulo 2^64 (R80; log 16). -/
def deltaTimestamp (s : State) : U64 :=
  s.stage1.timestamp - s.prevTimestamp

/-- The address field of a Sync packet (R80). -/
def syncAddress (s : State) : U64 :=
  s.stage0.address >>> 1

/-- The address field of UJ and Trap packets: the XOR of the two slots' shifted addresses (R80; 43_target_mode.md R197). -/
def xorAddress (s : State) : U64 :=
  (s.stage0.address >>> 1) ^^^ (s.stage1.address >>> 1)

end Sys2Proof.Machine
end

