-- ==== Sys2Proof/Machine/Ops.lean ====
section
/-! DEFINITION. The named operations over the state that the meanings are made of: the predictor table, the sink, the
pipeline, the packet generators, the fault of the block, the two data steps. -/

namespace Sys2Proof.Machine

/-! ## The predictor table -/

/-- `TabRead(i)` (00_scope.md R9): an unlisted cell holds `WeakNotTaken`, the reset value (10_state.md R35). -/
def tabRead : Table → Nat → Cell
  | [], _ => weakNotTaken
  | (k, c) :: rest, i => if k = i then c else tabRead rest i

/-- A cell put in front of the cells above it, if it has to be listed. -/
def tabCons (i : Nat) (v : Cell) (rest : Table) : Table :=
  if v = weakNotTaken then rest else (i, v) :: rest

/-- `TabWrite(i, v)` (00_scope.md R9), keeping the canonical form. -/
def tabWrite : Table → Nat → Cell → Table
  | [], i, v => tabCons i v []
  | (k, c) :: rest, i, v =>
    if i < k then tabCons i v ((k, c) :: rest)
    else if i = k then tabCons i v rest
    else (k, c) :: tabWrite rest i v

/-- The canonical form of a table of `n` cells above index `lo`: indexes rising, below `n`, no cell at its reset value. -/
def tabWfFrom (n : Nat) : Nat → Table → Bool
  | _, [] => true
  | lo, (k, c) :: rest => decide (lo ≤ k) && decide (k < n) && decide (c ≠ weakNotTaken) && tabWfFrom n (k + 1) rest

/-- The canonical form of a table of `n` cells (log 20). -/
def tabWf (n : Nat) (t : Table) : Bool :=
  tabWfFrom n 0 t

/-! ## Writes of single registers -/

/-- The operation's result (log 17). -/
def setRet (r : Ret) (s : State) : State := { s with ret := r }

/-- `SinkAppend(bytes)` (20_memory.md R54). -/
def sinkAppend (bytes : List Byte) (s : State) : State := { s with sink := s.sink ++ bytes }

/-- `prevTimestamp <- t` (10_state.md R31). -/
def setPrevTimestamp (t : U64) (s : State) : State := { s with prevTimestamp := t }

/-- `hitCount <- c` (10_state.md R32). -/
def setHitCount (c : U64) (s : State) : State := { s with hitCount := c }

/-- `missFlag <- b` (10_state.md R33). -/
def setMissFlag (b : Bool) (s : State) : State := { s with missFlag := b }

/-- A new table (10_state.md R35). -/
def setTab (t : Table) (s : State) : State := { s with tab := t }

/-- A transition of the encoder state (42_encoder_control.md R169). It opens or closes a segment, so the model's note
that the mode changed inside one is dropped (log 14). -/
def setSegment (st : EncoderState) (s : State) : State := { s with st := st, modeChanged := false }

/-- `enabled <- b`, nothing else (42_encoder_control.md R162). -/
def writeEnabled (b : Bool) (s : State) : State := { s with enabled := b }

/-- `mode <- m` (42_encoder_control.md R166), with the model's note when the value changes inside an open segment
(R166(b), log 14). -/
def writeMode (m : BranchMode) (s : State) : State :=
  { s with mode := m, modeChanged := s.modeChanged || (s.st == .data && s.mode != m) }

/-- The pipeline shift, the first action of every call (42_encoder_control.md R168). -/
def shiftIn (e : IngressEvent) (s : State) : State := { s with stage1 := s.stage0, stage0 := e }

/-- The effects of `reset()` (42_encoder_control.md R161): `mode`, `sink` and `fault` stay. -/
def resetBlock (s : State) : State :=
  { s with
    st := .idle
    enabled := false
    stage0 := emptyEvent
    stage1 := emptyEvent
    tab := []
    prevTimestamp := 0
    hitCount := 0
    missFlag := false
    modeChanged := false }

/-- TAKING A FAULT (60_exceptions.md R247): the fault's name goes into the sticky record; what the call did before stays;
nothing is saved anywhere and control goes nowhere. There is no return from it (R250). -/
def raise (f : BlockFault) (s : State) : State := { s with fault := some f }

/-- A check of the block (60_exceptions.md R247): under `ASSERT_MODE = fault` a false one raises its fault and the rest
does not run; under `continue` there is no check. -/
def asserting (f : BlockFault) (holds : Bool) (act : State → State) (s : State) : State :=
  if holds || s.params.assertMode == .continue then act s else raise f s

/-! ## Outcomes -/

/-- The operation ends with a result. -/
def returns (r : Ret) (s : State) : Result := .next (setRet r s)

/-- "A faulted block accepts no further operation" (60_exceptions.md R247). -/
def accepting (act : State → Result) (s : State) : Result :=
  match s.fault with
  | none => act s
  | some _ => .refused .faultedBlock

/-! ## The predictor -/

/-- The cell an address selects (40_predictor.md R113). -/
def cellAt (pc : U64) (s : State) : Cell :=
  tabRead s.tab (predictorIndex s.n pc)

/-- Whether `predict` reports a hit (40_predictor.md R112): the cell before the update decides. -/
def predictHits (pc : U64) (takenActual : Bool) (s : State) : Bool :=
  cellHits takenActual (cellAt pc s)

/-- The update `predict` makes: one cell (40_predictor.md R112). -/
def predictUpdate (pc : U64) (takenActual : Bool) (s : State) : State :=
  setTab (tabWrite s.tab (predictorIndex s.n pc) (cellToward takenActual (cellAt pc s))) s

/-! ## Packet generators -/

/-- `GenSync()` (42_encoder_control.md R171). -/
def genSync (s : State) : State :=
  setPrevTimestamp s.stage0.timestamp
    (sinkAppend (longBytes s.params s.params.fhSYNC ttNone (syncAddress s) s.stage0.timestamp) s)

/-- `GenDirect(k)` (43_target_mode.md R193). -/
def genDirect (k : DirectKind) (s : State) : State :=
  setPrevTimestamp s.stage1.timestamp
    (sinkAppend (shortBytes s.params (directHeader s.params k) (deltaTimestamp s)) s)

/-- `GenUJ()` (43_target_mode.md R195). -/
def genUJ (s : State) : State :=
  setPrevTimestamp s.stage1.timestamp
    (sinkAppend (longBytes s.params s.params.fhUJ ttNone (xorAddress s) (deltaTimestamp s)) s)

/-- `GenTrap(t)` (43_target_mode.md R196). -/
def genTrap (t : TrapReason) (s : State) : State :=
  setPrevTimestamp s.stage1.timestamp
    (sinkAppend (longBytes s.params s.params.fhTRAP (trapCode s.params t) (xorAddress s) (deltaTimestamp s)) s)

/-- What `GenHit()` does once its invariant holds (44_prediction_mode.md R213). -/
def emitHit (s : State) : State :=
  setHitCount 0 (sinkAppend (shortBytes s.params s.params.fhHIT s.hitCount) s)

/-- `GenHit()` (44_prediction_mode.md R213). -/
def genHit (s : State) : State :=
  asserting .hitInvariant (hitInvariant s) emitHit s

/-- `GenMiss()` (44_prediction_mode.md R214). -/
def genMiss (s : State) : State :=
  asserting .missInvariant (missInvariant s) (genDirect .miss) s

/-! ## Data steps -/

/-- The jump and trap table that both modes share (44_prediction_mode.md R216): a branch produces no packet here. -/
def jumpTrapDispatch (s : State) : State :=
  match s.stage1.kind with
  | .none => s
  | .branchTaken => s
  | .branchNotTaken => s
  | .jumpInferable => genDirect .ij s
  | .jumpUninferable => genUJ s
  | .exception => genTrap .exception s
  | .interrupt => genTrap .interrupt s
  | .trapReturn => genTrap .trapReturn s

/-- `TargetDataStep()` (43_target_mode.md R190, R191). -/
def targetDataStep (s : State) : State :=
  match s.stage1.kind with
  | .none => s
  | .branchTaken => genDirect .tb s
  | .branchNotTaken => genDirect .nt s
  | .jumpInferable => genDirect .ij s
  | .jumpUninferable => genUJ s
  | .exception => genTrap .exception s
  | .interrupt => genTrap .interrupt s
  | .trapReturn => genTrap .trapReturn s

/-- The predict sub-stage, on `stage0` (44_prediction_mode.md R211). -/
def predictStage (s : State) : State :=
  if isBranch s.stage0.kind then
    let taken := s.stage0.kind == .branchTaken
    let s1 := predictUpdate s.stage0.address taken s
    if predictHits s.stage0.address taken s then setHitCount (s1.hitCount + 1) s1 else s1
  else s

/-- `pendingMiss`, a local of one call (44_prediction_mode.md R211), from the state before the predict sub-stage. -/
def pendingMiss (s : State) : Bool :=
  isBranch s.stage0.kind && !predictHits s.stage0.address (s.stage0.kind == .branchTaken) s

/-- `forceFlush`, a local of one call (44_prediction_mode.md R211), from the state before the predict sub-stage. -/
def forceFlush (s : State) : Bool :=
  pendingMiss s || isJumpOrTrap s.stage0.kind

/-- The generate sub-stage, on `stage1` (44_prediction_mode.md R212): three arms, in this order. -/
def generateStage (flush : Bool) (s : State) : State :=
  if flush && s.hitCount != 0 then genHit s
  else if s.missFlag then genMiss s
  else jumpTrapDispatch s

/-- The commit of `missFlag`, strictly last (44_prediction_mode.md R218); a fault of the generate sub-stage ends the call
before it (60_exceptions.md R247). -/
def commitMissFlag (pending : Bool) (s : State) : State :=
  match s.fault with
  | none => setMissFlag pending s
  | some _ => s

/-- `PredictionDataStep()` (44_prediction_mode.md R210). -/
def predictionDataStep (s : State) : State :=
  commitMissFlag (pendingMiss s) (generateStage (forceFlush s) (predictStage s))

/-- `DataStep()` (42_encoder_control.md R172): no meaning in a segment whose mode was changed (R166(b)) or under a
reserved mode (30_encoding.md R96). -/
def dataStep (s : State) : Result :=
  if s.modeChanged then .refused .modeChangedMidSegment
  else
    match s.mode with
    | .target => returns .unit (targetDataStep s)
    | .prediction => returns .unit (predictionDataStep s)
    | .history => .refused .reservedMode
    | .reserved => .refused .reservedMode

/-- The state machine, the second action of every call (42_encoder_control.md R169). -/
def segmentStep (s : State) : Result :=
  match s.st, s.enabled with
  | .idle, false => returns .unit s
  | .idle, true => returns .unit (setSegment .data (genSync s))
  | .data, true => dataStep s
  | .data, false => returns .unit (setSegment .idle (genSync s))

/-- `pushIngress(event)` (42_encoder_control.md R167): the shift, then the state machine. -/
def pushEvent (e : IngressEvent) (s : State) : Result :=
  accepting (fun s => segmentStep (shiftIn e s)) s

/-! ## The register view -/

/-- A read of TE_CTRL (10_state.md R29): bit 0 `enabled`, bits [2:1] `mode`, all other bits 0. No operation is a register
access: "a model exposes the operations, not the register" (92_eei_decisions.md D18). On a faulted block it reads the two fields
as on any other (log 28). -/
def teCtrlRead (s : State) : U64 :=
  (if s.enabled then 1#64 else 0#64) ||| ((modeCode s.mode).setWidth 64 <<< 1)

/-- What a write of TE_CTRL stores (10_state.md R29); bits [63:4] are ignored. With bit 3 clear it is `setEnabled(v[0])` and
`setMode(v[2:1])`. With bit 3 alone it is `reset()` (42_encoder_control.md R161): `enabled` false, `mode` unchanged. With bit 3
and some of bits [2:0] the reset happens too, and what `enabled` and `mode` then hold is a free value (D18; log 21). -/
def teCtrlStore (v : U64) (s : State) : State :=
  let low : BitVec 3 := v.extractLsb' 0 3
  if v.getLsbD 3 then
    if low = 0#3 then resetBlock s
    else
      let fields := Config.teCtrlStrobeWrite low s.enabled s.mode
      writeMode fields.2 (writeEnabled fields.1 (resetBlock s))
  else writeMode (modeOfCode (v.extractLsb' 1 2)) (writeEnabled (v.getLsbD 0) s)

/-- A write of TE_CTRL. DESIGN CHOICE (log 28): a faulted block refuses it, as it refuses the operations the register carries
(60_exceptions.md R247 speaks of operations only, and D18 leaves the register to its implementer). The read has no such gate:
it is a view of two fields. -/
def teCtrlWrite (v : U64) (s : State) : Result :=
  accepting (fun s => returns .unit (teCtrlStore v s)) s

end Sys2Proof.Machine
end

