-- ==== Sys2Proof/Machine/CodecRows.lean ====
section
/-! DEFINITION. The meanings of the codec rows (41_codec.md R130 to R138): pure, total functions, whose result is the
operation's. The codec has no state, so no fault of the block stops them (log 13). -/

namespace Sys2Proof.Machine

/-- R130. -/
def execCodecMostSignificantBitIndex (x : U64) (s : State) : Result :=
  returns (.int (mostSignificantBitIndex x)) s

/-- R131. -/
def execCodecByteCount (msb : Int) (s : State) : Result :=
  returns (.int (byteCount msb)) s

/-- R132. -/
def execCodecEncodeVarint (value : U64) (s : State) : Result :=
  returns (.bytes (encodeVarint value)) s

/-- R133. -/
def execCodecIsCompressible (delta : U64) (s : State) : Result :=
  returns (.bool (isCompressible delta)) s

/-- R134. -/
def execCodecEncodeCompressed (compressedHeader : CHCode) (smallValue : SmallValue) (s : State) : Result :=
  returns (.bytes [encodeCompressed compressedHeader smallValue]) s

/-- R135. -/
def execCodecEncodeFullHeader (compressedHeader : CHCode) (fullHeader : FHCode) (trapType : TTCode) (s : State) :
    Result :=
  returns (.bytes [encodeFullHeader compressedHeader fullHeader trapType]) s

/-- R136. -/
def execCodecCompressedHeaderFor (fullHeader : FHCode) (s : State) : Result :=
  returns (.header (compressedHeaderFor s.params fullHeader)) s

/-- R138. -/
def execCodecEncodePacket (p : TracePacket) (shape : Shape) (s : State) : Result :=
  returns (.bytes (encodePacketRecord s.params p shape)) s

end Sys2Proof.Machine
end

