-- ==== Sys2Proof/Machine/Control.lean ====
section
/-! DEFINITION. The meanings of construction and of the control operations (42_encoder_control.md R160 to R166). -/

namespace Sys2Proof.Machine

/-- `construct(N, sink)` (R160): a new block with an empty sink under the same parameters. It asks nothing of the block
that was there before, so a faulted one does not stop it (60_exceptions.md R250). -/
def execConstruct (n : Nat) (s : State) : Result :=
  if n = 0 then .fault .constructZeroTable else .next (State.constructed s.params n s.inbox)

/-- `reset()` (R161). -/
def execReset (s : State) : Result :=
  accepting (fun s => returns .unit (resetBlock s)) s

/-- `setEnabled(b)` (R162). -/
def execSetEnabled (b : Bool) (s : State) : Result :=
  accepting (fun s => returns .unit (writeEnabled b s)) s

/-- `getEnabled()` (R163). -/
def execGetEnabled (s : State) : Result :=
  accepting (fun s => returns (.bool s.enabled) s) s

/-- `getMode()` (R165). -/
def execGetMode (s : State) : Result :=
  accepting (fun s => returns (.mode s.mode) s) s

/-- `setMode(m)` (R166). -/
def execSetMode (m : BranchMode) (s : State) : Result :=
  accepting (fun s => returns .unit (writeMode m s)) s

end Sys2Proof.Machine
end

