-- ==== Sys2Proof/Machine/Ingress.lean ====
section
/-! DEFINITION. The meanings of `pushIngress` (42_encoder_control.md R167) and of the eight event rows, each a
`pushIngress` of an event of its kind (30_encoding.md R97). -/

namespace Sys2Proof.Machine

/-- `pushIngress(event)` (R167). -/
def execPushIngress (event : IngressEvent) (s : State) : Result := pushEvent event s

/-- event.NONE (R97). -/
def execEventNONE (address timestamp : U64) (s : State) : Result := pushEvent ⟨address, timestamp, .none⟩ s

/-- event.BT (R97). -/
def execEventBT (address timestamp : U64) (s : State) : Result := pushEvent ⟨address, timestamp, .branchTaken⟩ s

/-- event.BNT (R97). -/
def execEventBNT (address timestamp : U64) (s : State) : Result := pushEvent ⟨address, timestamp, .branchNotTaken⟩ s

/-- event.IJ (R97). -/
def execEventIJ (address timestamp : U64) (s : State) : Result := pushEvent ⟨address, timestamp, .jumpInferable⟩ s

/-- event.UJ (R97). -/
def execEventUJ (address timestamp : U64) (s : State) : Result := pushEvent ⟨address, timestamp, .jumpUninferable⟩ s

/-- event.EXC (R97). -/
def execEventEXC (address timestamp : U64) (s : State) : Result := pushEvent ⟨address, timestamp, .exception⟩ s

/-- event.INT (R97). -/
def execEventINT (address timestamp : U64) (s : State) : Result := pushEvent ⟨address, timestamp, .interrupt⟩ s

/-- event.RET (R97). -/
def execEventRET (address timestamp : U64) (s : State) : Result := pushEvent ⟨address, timestamp, .trapReturn⟩ s

end Sys2Proof.Machine
end

