-- ==== Sys2Proof/Machine/Packets.lean ====
section
/-! DEFINITION. The meanings of the packet rows: each runs its row's generator on the state (log 18). The generators do
not look at `mode`, `st` or `enabled`: the dispatch of `pushIngress` does. -/

namespace Sys2Proof.Machine

/-- A generator run by itself. -/
def runGenerator (gen : State → State) (s : State) : Result :=
  accepting (fun s => returns .unit (gen s)) s

/-- SYNC (42_encoder_control.md R171). -/
def execSync (s : State) : Result := runGenerator genSync s

/-- TB.c (43_target_mode.md R193, R194): `GenDirect(TB)`, which takes this form at a delta below 64. -/
def execTbC (s : State) : Result := runGenerator (genDirect .tb) s

/-- TB.f (R193, R194): `GenDirect(TB)`, which takes this form at a delta of 64 or more. -/
def execTbF (s : State) : Result := runGenerator (genDirect .tb) s

/-- NT.c (R193, R194): `GenDirect(NT)`, which takes this form at a delta below 64. -/
def execNtC (s : State) : Result := runGenerator (genDirect .nt) s

/-- NT.f (R193, R194): `GenDirect(NT)`, which takes this form at a delta of 64 or more. -/
def execNtF (s : State) : Result := runGenerator (genDirect .nt) s

/-- IJ.c (R193, R194): `GenDirect(IJ)`, which takes this form at a delta below 64. -/
def execIjC (s : State) : Result := runGenerator (genDirect .ij) s

/-- IJ.f (R193, R194): `GenDirect(IJ)`, which takes this form at a delta of 64 or more. -/
def execIjF (s : State) : Result := runGenerator (genDirect .ij) s

/-- UJ (43_target_mode.md R195). -/
def execUj (s : State) : Result := runGenerator genUJ s

/-- TRAP.E (43_target_mode.md R196). -/
def execTrapE (s : State) : Result := runGenerator (genTrap .exception) s

/-- TRAP.I (R196). -/
def execTrapI (s : State) : Result := runGenerator (genTrap .interrupt) s

/-- TRAP.R (R196). -/
def execTrapR (s : State) : Result := runGenerator (genTrap .trapReturn) s

/-- The Hit packet's generator under the part of its arm's condition that is about the count: "`hitCount > 0` is part of
the arm's condition, so a Hit packet with count 0 is never emitted" (44_prediction_mode.md R213; 95_test_vectors.md H6). -/
def hitRow (s : State) : State :=
  if s.hitCount = 0 then s else genHit s

/-- HIT.c (R213): this form at a count below 64. -/
def execHitC (s : State) : Result := runGenerator hitRow s

/-- HIT.f (R213): this form at a count of 64 or more. -/
def execHitF (s : State) : Result := runGenerator hitRow s

/-- MISS.c (44_prediction_mode.md R214): this form at a delta below 64. -/
def execMissC (s : State) : Result := runGenerator genMiss s

/-- MISS.f (R214): this form at a delta of 64 or more. -/
def execMissF (s : State) : Result := runGenerator genMiss s

/-- VAL (30_encoding.md R90): reserved, never emitted, no effect given. -/
def execVal (_s : State) : Result := .refused .reservedPacket

/-- RES (30_encoding.md R90): reserved, never emitted, no effect given. -/
def execRes (_s : State) : Result := .refused .reservedPacket

end Sys2Proof.Machine
end

