-- ==== Sys2Proof/Machine/Predictor.lean ====
section
/-! DEFINITION. The meanings of the predictor rows (40_predictor.md R110 to R116). The four pure functions are total and
ask nothing of the block, so a faulted one does not stop them (log 13). -/

namespace Sys2Proof.Machine

/-- `reset()` of the predictor: every cell `WeakNotTaken` (R110). -/
def execPredictorReset (s : State) : Result :=
  accepting (fun s => returns .unit (setTab [] s)) s

/-- `index(pc)` (R111). -/
def execPredictorIndex (pc : U64) (s : State) : Result :=
  returns (.index (predictorIndex s.n pc)) s

/-- `predict(pc, takenActual)` (R112). -/
def execPredictorPredict (pc : U64) (takenActual : Bool) (s : State) : Result :=
  accepting (fun s => returns (.bool (predictHits pc takenActual s)) (predictUpdate pc takenActual s)) s

/-- `peek(pc)` (R113). -/
def execPredictorPeek (pc : U64) (s : State) : Result :=
  accepting (fun s => returns (.cell (cellAt pc s)) s) s

/-- `increment(s)` (R114). -/
def execPredictorIncrement (c : Cell) (s : State) : Result :=
  returns (.cell (cellIncrement c)) s

/-- `decrement(s)` (R115). -/
def execPredictorDecrement (c : Cell) (s : State) : Result :=
  returns (.cell (cellDecrement c)) s

/-- `isTaken(s)` (R116). -/
def execPredictorIsTaken (c : Cell) (s : State) : Result :=
  returns (.bool (cellIsTaken c)) s

end Sys2Proof.Machine
end

