-- ==== Sys2Proof/Machine/Dispatch.lean ====
section
/-! DEFINITION. One arm for each row of spec/opcode_table.json. -/

namespace Sys2Proof.Machine

def exec (i : Instr) (s : State) : Host.Outcome State Fault Refusal :=
  match i with
  | .sync => Sys2Proof.Machine.execSync s
  | .tbC => Sys2Proof.Machine.execTbC s
  | .tbF => Sys2Proof.Machine.execTbF s
  | .ntC => Sys2Proof.Machine.execNtC s
  | .ntF => Sys2Proof.Machine.execNtF s
  | .ijC => Sys2Proof.Machine.execIjC s
  | .ijF => Sys2Proof.Machine.execIjF s
  | .uj => Sys2Proof.Machine.execUj s
  | .trapE => Sys2Proof.Machine.execTrapE s
  | .trapI => Sys2Proof.Machine.execTrapI s
  | .trapR => Sys2Proof.Machine.execTrapR s
  | .hitC => Sys2Proof.Machine.execHitC s
  | .hitF => Sys2Proof.Machine.execHitF s
  | .missC => Sys2Proof.Machine.execMissC s
  | .missF => Sys2Proof.Machine.execMissF s
  | .val => Sys2Proof.Machine.execVal s
  | .res => Sys2Proof.Machine.execRes s
  | .construct n => Sys2Proof.Machine.execConstruct n s
  | .reset => Sys2Proof.Machine.execReset s
  | .setEnabled b => Sys2Proof.Machine.execSetEnabled b s
  | .getEnabled => Sys2Proof.Machine.execGetEnabled s
  | .getMode => Sys2Proof.Machine.execGetMode s
  | .setMode m => Sys2Proof.Machine.execSetMode m s
  | .pushIngress event => Sys2Proof.Machine.execPushIngress event s
  | .predictorReset => Sys2Proof.Machine.execPredictorReset s
  | .predictorIndex pc => Sys2Proof.Machine.execPredictorIndex pc s
  | .predictorPredict pc takenActual => Sys2Proof.Machine.execPredictorPredict pc takenActual s
  | .predictorPeek pc => Sys2Proof.Machine.execPredictorPeek pc s
  | .predictorIncrement c => Sys2Proof.Machine.execPredictorIncrement c s
  | .predictorDecrement c => Sys2Proof.Machine.execPredictorDecrement c s
  | .predictorIsTaken c => Sys2Proof.Machine.execPredictorIsTaken c s
  | .codecMostSignificantBitIndex x => Sys2Proof.Machine.execCodecMostSignificantBitIndex x s
  | .codecByteCount msb => Sys2Proof.Machine.execCodecByteCount msb s
  | .codecEncodeVarint value => Sys2Proof.Machine.execCodecEncodeVarint value s
  | .codecIsCompressible delta => Sys2Proof.Machine.execCodecIsCompressible delta s
  | .codecEncodeCompressed ch v => Sys2Proof.Machine.execCodecEncodeCompressed ch v s
  | .codecEncodeFullHeader ch fh tt => Sys2Proof.Machine.execCodecEncodeFullHeader ch fh tt s
  | .codecCompressedHeaderFor fh => Sys2Proof.Machine.execCodecCompressedHeaderFor fh s
  | .codecEncodePacket p shape => Sys2Proof.Machine.execCodecEncodePacket p shape s
  | .eventNONE a t => Sys2Proof.Machine.execEventNONE a t s
  | .eventBT a t => Sys2Proof.Machine.execEventBT a t s
  | .eventBNT a t => Sys2Proof.Machine.execEventBNT a t s
  | .eventIJ a t => Sys2Proof.Machine.execEventIJ a t s
  | .eventUJ a t => Sys2Proof.Machine.execEventUJ a t s
  | .eventEXC a t => Sys2Proof.Machine.execEventEXC a t s
  | .eventINT a t => Sys2Proof.Machine.execEventINT a t s
  | .eventRET a t => Sys2Proof.Machine.execEventRET a t s

end Sys2Proof.Machine
end

