-- ==== Sys2Proof/Machine/Step.lean ====
section
/-! DEFINITION. One step: the owner's next request is taken and run to completion (20_memory.md R60, R61). The block has
no program counter and fetches nothing (10_state.md R25), so the queue of requests is what stands where a processor has
its program. -/

namespace Sys2Proof.Machine

/-- One step (log 1, log 2). With no request pending it is a clock edge with no valid event, which changes no state
(70_reset_and_hazards.md R290; 92_eei_decisions.md D4). -/
def step (s : State) : Host.Outcome State Fault Refusal :=
  match s.inbox with
  | [] => .next s
  | r :: rest =>
    match readRequest r with
    | .ok i _ => exec i { s with inbox := rest }
    | .bad e => .refused (.undecodable e)

/-- The same state with a word of the table as its next request. -/
def State.withFetchWord (s : State) (nbits w : Nat) : State :=
  { s with inbox := tableRequest nbits w :: s.inbox }

/-- The same state with the lines of an operation script (30_encoding.md R99) as its next requests: how a program comes
to run (log 2). -/
def State.withScript (s : State) (lines : List ScriptLine) : State :=
  { s with inbox := lines.map (fun l => Request.call (scriptInstr l)) ++ s.inbox }

end Sys2Proof.Machine
end

