-- ==== Sys2Proof/Safety.lean ====
section
/-! DEFINITION. What counts as a safe run, in the terms the statements use: the well-formed state, the clean accounting of
44_prediction_mode.md R219, the packet an event is traced by, and runs of calls. -/

namespace Sys2Proof.Machine

/-- The state invariant: distinct codes (30_encoding.md R74 to R77), at least one predictor cell (60_exceptions.md R244),
a table in canonical form (log 20). -/
def State.Wf (s : State) : Prop :=
  s.params.wf ∧ 1 ≤ s.n ∧ tabWf s.n s.tab = true

/-- "The sink holds only whole packets" (60_exceptions.md R247; 20_memory.md R57). -/
def WholePackets (s : State) : Prop :=
  ∃ qs : List Packet, (∀ q ∈ qs, q.wf) ∧ s.sink = qs.flatMap (encodePacket s.params)

/-- A call of `pushIngress` on this state runs the data step of mode `m` (42_encoder_control.md R169, R172), in a segment
whose mode was not changed (R166(b)). -/
def RunsDataStep (m : BranchMode) (s : State) : Prop :=
  s.fault = none ∧ s.st = .data ∧ s.enabled = true ∧ s.mode = m ∧ s.modeChanged = false

/-- The accounting between two calls of a clean Prediction Mode segment (44_prediction_mode.md R219): a pending miss is
that of the branch in `stage0` and no hits are pending with it, and pending hits are not followed by a jump or trap. -/
def CleanAccounting (s : State) : Prop :=
  (s.missFlag = true → isBranch s.stage0.kind = true ∧ s.hitCount = 0) ∧
  (s.hitCount ≠ 0 → isJumpOrTrap s.stage0.kind = false)

/-- The packet by which the dispatch tables trace an event, given the event after it and the baseline
(43_target_mode.md R191 in Target Mode; 44_prediction_mode.md R216 in Prediction Mode; field values 30_encoding.md R80). -/
def tracedPacket (m : BranchMode) (older newer : IngressEvent) (prev : U64) : Option Packet :=
  match older.kind with
  | .none => none
  | .branchTaken => if m = .target then some (.tb (older.timestamp - prev)) else none
  | .branchNotTaken => if m = .target then some (.nt (older.timestamp - prev)) else none
  | .jumpInferable => some (.ij (older.timestamp - prev))
  | .jumpUninferable => some (.uj ((newer.address >>> 1) ^^^ (older.address >>> 1)) (older.timestamp - prev))
  | .exception => some (.trap .exception ((newer.address >>> 1) ^^^ (older.address >>> 1)) (older.timestamp - prev))
  | .interrupt => some (.trap .interrupt ((newer.address >>> 1) ^^^ (older.address >>> 1)) (older.timestamp - prev))
  | .trapReturn => some (.trap .trapReturn ((newer.address >>> 1) ^^^ (older.address >>> 1)) (older.timestamp - prev))

/-- The bytes of a packet, or none. -/
def packetBytes (p : Params) : Option Packet → List Byte
  | none => []
  | some q => encodePacket p q

/-- The packets that Target Mode traces a run of events by, each event reported once the next one has come
(42_encoder_control.md R174; 43_target_mode.md R191): the baseline moves only when a packet is emitted (10_state.md R31). -/
def targetTrace (prev : U64) (older : IngressEvent) : List IngressEvent → List Packet
  | [] => []
  | e :: es =>
    match tracedPacket .target older e prev with
    | none => targetTrace prev e es
    | some q => q :: targetTrace older.timestamp e es

/-- Calls of `pushIngress`, one after another (20_memory.md R60). -/
def pushEvents : List IngressEvent → State → Result
  | [], s => .next s
  | e :: es, s =>
    match exec (.pushIngress e) s with
    | .next t => pushEvents es t
    | .fault f => .fault f
    | .refused r => .refused r

/-- The event that an instruction pushes, if it is a `pushIngress`: the row itself or an event row
(42_encoder_control.md R167; 30_encoding.md R97). -/
def pushedEvent : Instr → Option IngressEvent
  | .pushIngress e => some e
  | .eventNONE a t => some ⟨a, t, .none⟩
  | .eventBT a t => some ⟨a, t, .branchTaken⟩
  | .eventBNT a t => some ⟨a, t, .branchNotTaken⟩
  | .eventIJ a t => some ⟨a, t, .jumpInferable⟩
  | .eventUJ a t => some ⟨a, t, .jumpUninferable⟩
  | .eventEXC a t => some ⟨a, t, .exception⟩
  | .eventINT a t => some ⟨a, t, .interrupt⟩
  | .eventRET a t => some ⟨a, t, .trapReturn⟩
  | .sync | .tbC | .tbF | .ntC | .ntF | .ijC | .ijF | .uj | .trapE | .trapI | .trapR => none
  | .hitC | .hitF | .missC | .missF | .val | .res => none
  | .construct _ | .reset | .setEnabled _ | .getEnabled | .getMode | .setMode _ => none
  | .predictorReset | .predictorIndex _ | .predictorPredict _ _ | .predictorPeek _ => none
  | .predictorIncrement _ | .predictorDecrement _ | .predictorIsTaken _ => none
  | .codecMostSignificantBitIndex _ | .codecByteCount _ | .codecEncodeVarint _ => none
  | .codecIsCompressible _ | .codecEncodeCompressed _ _ | .codecEncodeFullHeader _ _ _ => none
  | .codecCompressedHeaderFor _ | .codecEncodePacket _ _ => none

/-- The packet rows whose packet carries a timestamp, so that their generator moves the baseline (10_state.md R31). -/
def timestampRows : List Instr :=
  [.sync, .tbC, .tbF, .ntC, .ntF, .ijC, .ijF, .uj, .trapE, .trapI, .trapR, .missC, .missF]

/-- The packet rows whose packet carries a count (44_prediction_mode.md R213). -/
def hitRows : List Instr := [.hitC, .hitF]

/-- The packet rows whose generator checks an invariant (60_exceptions.md R241, R242). -/
def assertingRows : List Instr := [.hitC, .hitF, .missC, .missF]

/-- The outcome table of `predict` (40_predictor.md R112), row by row: whether it is a hit, and the new cell. -/
def predictTable (old : Cell) (takenActual : Bool) : Bool × Cell :=
  match old.toNat, takenActual with
  | 0, false => (true, 0#2)
  | 0, true => (false, 1#2)
  | 1, false => (true, 0#2)
  | 1, true => (false, 2#2)
  | 2, false => (false, 1#2)
  | 2, true => (true, 3#2)
  | _, false => (false, 2#2)
  | _, true => (true, 3#2)

/-- Two events that differ at most in bit 0 of their addresses (10_state.md R25). -/
def SameUpToBit0 (e e' : IngressEvent) : Prop :=
  e.address >>> 1 = e'.address >>> 1 ∧ e.timestamp = e'.timestamp ∧ e.kind = e'.kind

/-- Two states that differ at most in bit 0 of the two staged addresses (10_state.md R25). -/
def AgreeUpToBit0 (s t : State) : Prop :=
  SameUpToBit0 s.stage0 t.stage0 ∧ SameUpToBit0 s.stage1 t.stage1 ∧
  { s with stage0 := emptyEvent, stage1 := emptyEvent } = { t with stage0 := emptyEvent, stage1 := emptyEvent }

end Sys2Proof.Machine
end

