-- ==== Sys2Proof/Certificates/Slice0/Obligations.lean ====
section
/-! DEFINITION. The statements for the provers: what the numbered rules of spec/ say each operation and the whole block
do. A clause that rests on a choice of the spec or of the model says so and names the log entry. -/

open Sys2Proof Sys2Proof.Machine

/-! ## Words and packets -/

/-- First bytes of packets and an event, written out bit by bit from 30_encoding.md R78, R90 and R97, decode to their
rows. The code values are the spec's defaults (log 6, log 7, log 8) and the event's byte layout is the model's (log 5). -/
def Obligations.WrittenOutWordsDecode : Prop :=
  ∀ rest : List Byte,
    decodeIn defaultParams (.stream .history) (0b00010110#8 :: rest) = .ok .sync rest ∧
    decodeIn defaultParams (.stream .target) (0b11111100#8 :: rest) = .ok .tbC rest ∧
    decodeIn defaultParams (.stream .prediction) (0b11111100#8 :: rest) = .ok .hitC rest ∧
    decodeIn defaultParams (.stream .target) (0b00000110#8 :: rest) = .ok .ntF rest ∧
    decodeIn defaultParams (.stream .prediction) (0b00000110#8 :: rest) = .ok .missF rest ∧
    decodeIn defaultParams (.stream .target) (0b00000111#8 :: rest) = .ok .ijC rest ∧
    decodeIn defaultParams (.stream .prediction) (0b00001010#8 :: rest) = .ok .uj rest ∧
    decodeIn defaultParams (.stream .target) (0b10010010#8 :: rest) = .ok .trapR rest ∧
    decodeIn defaultParams (.stream .target) (0b00111010#8 :: rest) = .ok .val rest ∧
    decodeIn defaultParams (.stream .target) (0b11111110#8 :: rest) = .ok .res rest ∧
    decodeIn defaultParams .ingress
      ([0b00000100#8, 2#8, 1#8, 0#8, 0#8, 0#8, 0#8, 0#8, 0#8, 3#8, 0#8, 0#8, 0#8, 0#8, 0#8, 0#8, 0#8] ++ rest) =
        .ok (.eventUJ 0x102#64 3#64) rest

/-- A row's word, read where the row's words stand, is the row again, under any distinct codes: no row falls through to
a neighbour (30_encoding.md R70 to R78, R97). The operation rows have no word (log 3), and the words of Hit and Miss
rows are told from those of TB and NT rows by the mode (R86). -/
def Obligations.EncodedWordDecodesToItsRow : Prop :=
  ∀ (p : Params) (i : Instr) (space : WordSpace) (rest : List Byte), p.wf → i.readIn space →
    ∃ w, encode p i = some w ∧ decodeIn p space (w ++ rest) = .ok i rest

/-- R132: the bytes of a varint, bit by bit, and the two properties the source states of them. -/
def Obligations.VarintBytesAndRoundTrip : Prop :=
  ∀ (v : U64) (s : State), ∃ bs : List Byte,
    exec (.codecEncodeVarint v) s = .next { s with ret := .bytes bs } ∧
    (bs.length : Int) = byteCount (mostSignificantBitIndex v) ∧
    (∀ i (h : i < bs.length), (bs[i]).setWidth 7 = (v >>> (7 * i)).setWidth 7 ∧
      ((bs[i]).getLsbD 7 = true ↔ i + 1 = bs.length)) ∧
    (v = 0 → bs = [0x80#8]) ∧
    (∀ (h : bs ≠ []), v ≠ 0 → (bs.getLast h).setWidth 7 ≠ 0#7) ∧
    (∀ rest, decodeVarint (bs ++ rest) = .ok v rest)

/-- R130. -/
def Obligations.HighestSetBitIsFound : Prop :=
  ∀ (x : U64) (s : State), ∃ k : Int,
    exec (.codecMostSignificantBitIndex x) s = .next { s with ret := .int k } ∧
    (x = 0 → k = -1) ∧
    (x ≠ 0 → ∃ j : Nat, k = j ∧ j < 64 ∧ x.getLsbD j = true ∧ ∀ i, j < i → x.getLsbD i = false)

/-- R131: the table over the whole range, and the byte count of a value by its size. -/
def Obligations.ByteCountTable : Prop :=
  (∀ (msb : Int) (s : State), -1 ≤ msb → msb ≤ 63 →
    exec (.codecByteCount msb) s = .next { s with
      ret := .int (if msb ≤ 6 then 1 else if msb ≤ 13 then 2 else if msb ≤ 20 then 3 else if msb ≤ 27 then 4
       else if msb ≤ 34 then 5 else if msb ≤ 41 then 6 else if msb ≤ 48 then 7 else if msb ≤ 55 then 8
       else if msb ≤ 62 then 9 else 10) }) ∧
  (∀ v : U64, v.toNat < 2 ^ 7 → byteCount (mostSignificantBitIndex v) = 1) ∧
  (∀ (v : U64) (k : Nat), 2 ≤ k → 2 ^ (7 * (k - 1)) ≤ v.toNat → v.toNat < 2 ^ (7 * k) →
    byteCount (mostSignificantBitIndex v) = k) ∧
  (∀ v : U64, 2 ^ 63 ≤ v.toNat → byteCount (mostSignificantBitIndex v) = 10)

/-- R133. -/
def Obligations.CompressibleBelow64 : Prop :=
  ∀ (d : U64) (s : State),
    exec (.codecIsCompressible d) s = .next { s with ret := .bool (decide (d.toNat < 64)) }

/-- R134, R135: the fields of the two header bytes do not overlap. -/
def Obligations.HeaderByteFields : Prop :=
  (∀ (ch : CHCode) (v : SmallValue) (s : State), ∃ b : Byte,
    exec (.codecEncodeCompressed ch v) s = .next { s with ret := .bytes [b] } ∧
    b.toNat = ch.toNat + 2 ^ 2 * v.toNat) ∧
  (∀ (ch : CHCode) (fh : FHCode) (tt : TTCode) (s : State), ∃ b : Byte,
    exec (.codecEncodeFullHeader ch fh tt) s = .next { s with ret := .bytes [b] } ∧
    b.toNat = ch.toNat + 2 ^ 2 * fh.toNat + 2 ^ 5 * tt.toNat)

/-- The compressed header of each full header (41_codec.md R136), under distinct codes. That Hit and Miss share the codes
of TB and NT is the spec's own resolution (92_eei_decisions.md D7, log 7). -/
def Obligations.CompressedHeaderOfEachKind : Prop :=
  ∀ s : State, s.params.wf →
    exec (.codecCompressedHeaderFor s.params.fhTB) s = .next { s with ret := .header s.params.chTB } ∧
    exec (.codecCompressedHeaderFor s.params.fhNT) s = .next { s with ret := .header s.params.chNT } ∧
    exec (.codecCompressedHeaderFor s.params.fhIJ) s = .next { s with ret := .header s.params.chIJ } ∧
    exec (.codecCompressedHeaderFor s.params.fhHIT) s = .next { s with ret := .header s.params.chTB } ∧
    exec (.codecCompressedHeaderFor s.params.fhMISS) s = .next { s with ret := .header s.params.chNT } ∧
    (∀ fh, fh ≠ s.params.fhTB → fh ≠ s.params.fhNT → fh ≠ s.params.fhIJ →
      exec (.codecCompressedHeaderFor fh) s = .next { s with ret := .header s.params.chNA })

/-- The three byte shapes (41_codec.md R138, which the spec derives from R132 to R136). Outside a shape's range the record
is encoded by the same expression (log 27). -/
def Obligations.PacketRecordShapes : Prop :=
  ∀ (r : TracePacket) (s : State),
    exec (.codecEncodePacket r .compressed) s = .next { s with
      ret := .bytes [encodeCompressed (compressedHeaderFor s.params r.fullHeader) (r.timestampOrCount.setWidth 6)] } ∧
    exec (.codecEncodePacket r .full1) s = .next { s with
      ret := .bytes ([encodeFullHeader s.params.chNA r.fullHeader 0#3] ++ encodeVarint r.timestampOrCount) } ∧
    exec (.codecEncodePacket r .full2) s = .next { s with
      ret := .bytes ([encodeFullHeader s.params.chNA r.fullHeader r.trapType] ++ encodeVarint r.address ++
        encodeVarint r.timestampOrCount) }

/-- The lengths of packets (30_encoding.md R79): one byte below 64, else 2 to 11; 3 to 20 with two fields. -/
def Obligations.PacketLengths : Prop :=
  ∀ p : Params,
    (∀ (v : U64) (q : Packet), q = .tb v ∨ q = .nt v ∨ q = .ij v ∨ q = .hit v ∨ q = .miss v →
      (v.toNat < 64 → (encodePacket p q).length = 1) ∧
      (64 ≤ v.toNat → 2 ≤ (encodePacket p q).length ∧ (encodePacket p q).length ≤ 11)) ∧
    (∀ (a t : U64) (r : TrapReason) (q : Packet), a.toNat < 2 ^ 63 → q = .sync a t ∨ q = .uj a t ∨ q = .trap r a t →
      3 ≤ (encodePacket p q).length ∧ (encodePacket p q).length ≤ 20)

/-- The first bytes that the block never emits, with the default codes (30_encoding.md R91; log 6). -/
def Obligations.FirstBytesNeverEmitted : Prop :=
  ∀ q : Packet, ∃ b rest, encodePacket defaultParams q = b :: rest ∧
    (b.extractLsb' 0 2 = 0b10#2 →
      b ∈ [0x02#8, 0x06#8, 0x0A#8, 0x0E#8, 0x16#8, 0x32#8, 0x52#8, 0x92#8])

/-- Every packet a mode can emit is read back from its bytes with every field, by the checking decoder of R82 and R139,
under any distinct codes. -/
def Obligations.EncodedPacketDecodes : Prop :=
  ∀ (p : Params) (m : BranchMode) (q : Packet) (rest : List Byte), p.wf → q.wf → q.inMode m →
    decodePacket p m (encodePacket p q ++ rest) = .ok q rest

/-- Every stream of packets of one mode is read back whole: packet boundaries need no mark (30_encoding.md R70, R82). -/
def Obligations.EncodedStreamDecodes : Prop :=
  ∀ (p : Params) (m : BranchMode) (qs : List Packet), p.wf → (∀ q ∈ qs, q.wf ∧ q.inMode m) →
    decodeStream p m qs.length (qs.flatMap (encodePacket p)) = .ok qs []

/-- No packet carries a reserved full header (30_encoding.md R90, under distinct codes), and the two reserved rows stop by name.
The refusal is the model's: R90 gives the rows no meaning and says that the block has no trap or fault on meeting one;
93_implementation_defined.md U3 has a decoder refuse them (NOTES.md, Stops; log 22). -/
def Obligations.ReservedHeadersHaveNoMeaning : Prop :=
  (∀ s : State, exec .val s = .refused .reservedPacket ∧ exec .res s = .refused .reservedPacket) ∧
  (∀ (p : Params) (q : Packet), p.wf → ∃ b rest, encodePacket p q = b :: rest ∧
    (b.extractLsb' 0 2 = p.chNA → b.extractLsb' 2 3 ≠ p.fhVAL ∧ b.extractLsb' 2 3 ≠ p.fhRES))

/-! ## The predictor -/

/-- R111. -/
def Obligations.PredictorIndexIsHalfModN : Prop :=
  ∀ (pc : U64) (s : State),
    exec (.predictorIndex pc) s = .next { s with ret := .index (pc.toNat / 2 % s.n) }

/-- R51: the index lies in the table, is a bit slice for the default size, and two addresses with the same index share a
cell: a branch at either trains it and `peek` at either reads it. -/
def Obligations.AliasedAddressesShareACell : Prop :=
  (∀ (n : Nat) (pc : U64), 1 ≤ n → predictorIndex n pc < n) ∧
  (∀ pc : U64, predictorIndex 1024 pc = (pc.extractLsb' 1 10).toNat) ∧
  (∀ (s : State) (pc pc' : U64) (taken : Bool), pc.toNat / 2 % s.n = pc'.toNat / 2 % s.n →
    exec (.predictorPredict pc taken) s = exec (.predictorPredict pc' taken) s ∧
    exec (.predictorPeek pc) s = exec (.predictorPeek pc') s)

/-- R114, R115, R116: the two chains and the direction bit, for each of the four cell states. -/
def Obligations.CounterChains : Prop :=
  ∀ s : State,
    exec (.predictorIncrement 0#2) s = .next { s with ret := .cell 1#2 } ∧
    exec (.predictorIncrement 1#2) s = .next { s with ret := .cell 2#2 } ∧
    exec (.predictorIncrement 2#2) s = .next { s with ret := .cell 3#2 } ∧
    exec (.predictorIncrement 3#2) s = .next { s with ret := .cell 3#2 } ∧
    exec (.predictorDecrement 3#2) s = .next { s with ret := .cell 2#2 } ∧
    exec (.predictorDecrement 2#2) s = .next { s with ret := .cell 1#2 } ∧
    exec (.predictorDecrement 1#2) s = .next { s with ret := .cell 0#2 } ∧
    exec (.predictorDecrement 0#2) s = .next { s with ret := .cell 0#2 } ∧
    (∀ c : Cell, exec (.predictorIsTaken c) s = .next { s with ret := .bool (decide (2 ≤ c.toNat)) })

/-- R112: the outcome table of `predict`, and that it mutates exactly one cell and nothing else of the block. -/
def Obligations.PredictOutcomeAndFrame : Prop :=
  ∀ (pc : U64) (taken : Bool) (s : State), s.fault = none → tabWf s.n s.tab = true →
    ∃ tab' : Table,
      exec (.predictorPredict pc taken) s =
        .next { s with
          tab := tab'
          ret := .bool (predictTable (tabRead s.tab (pc.toNat / 2 % s.n)) taken).1 } ∧
      tabRead tab' (pc.toNat / 2 % s.n) = (predictTable (tabRead s.tab (pc.toNat / 2 % s.n)) taken).2 ∧
      (∀ j, j ≠ pc.toNat / 2 % s.n → tabRead tab' j = tabRead s.tab j)

/-- `peek` returns the cell and changes nothing (40_predictor.md R113). That the owner may call it is the spec's choice
(92_eei_decisions.md D21, log 24). -/
def Obligations.PeekReadsAndChangesNothing : Prop :=
  ∀ (pc : U64) (s : State), s.fault = none →
    exec (.predictorPeek pc) s = .next { s with ret := .cell (tabRead s.tab (pc.toNat / 2 % s.n)) }

/-- R110. That the predictor can be reset alone is the model's (log 24). -/
def Obligations.PredictorResetSetsEveryCell : Prop :=
  ∀ s : State, s.fault = none → ∃ tab' : Table,
    exec .predictorReset s = .next { s with tab := tab', ret := .unit } ∧ ∀ i, tabRead tab' i = 1#2

/-! ## Construction, reset and the control fields -/

/-- Construction (42_encoder_control.md R160): the registers' values and MODE_POR are the spec's choice (D14, log 10), and
the block that was there before, faulted or not, has no part in it (60_exceptions.md R250, log 12). -/
def Obligations.ConstructMakesAFreshBlock : Prop :=
  ∀ (n : Nat) (s : State), n ≠ 0 → ∃ t, exec (.construct n) s = .next t ∧
    t.params = s.params ∧ t.inbox = s.inbox ∧ t.n = n ∧ t.st = .idle ∧ t.enabled = false ∧ t.mode = s.params.modePor ∧
    t.stage0 = ⟨0, 0, .none⟩ ∧ t.stage1 = ⟨0, 0, .none⟩ ∧ t.prevTimestamp = 0 ∧ t.hitCount = 0 ∧ t.missFlag = false ∧
    (∀ i, tabRead t.tab i = 1#2) ∧ t.sink = [] ∧ t.fault = none ∧ t.modeChanged = false ∧ t.ret = .unit

/-- R244. -/
def Obligations.ConstructRejectsZeroCells : Prop :=
  ∀ s : State, exec (.construct 0) s = .fault .constructZeroTable

/-- The effects of `reset()` (42_encoder_control.md R161). That `mode`, `sink` and `fault` stay, and the empty event's
address and timestamp, are the spec's choices (D13, D15, D16; log 9, log 11). -/
def Obligations.ResetEffects : Prop :=
  ∀ s : State, s.fault = none → ∃ tab' : Table, (∀ i, tabRead tab' i = 1#2) ∧
    exec .reset s = .next { s with
      st := .idle, enabled := false, stage0 := ⟨0, 0, .none⟩, stage1 := ⟨0, 0, .none⟩, tab := tab',
      prevTimestamp := 0, hitCount := 0, missFlag := false, modeChanged := false, ret := .unit }

/-- "`reset()` then `reset()` again leaves identical observable state" (10_state.md R38, a table of which rests on the
spec's choices). -/
def Obligations.ResetTwiceIsResetOnce : Prop :=
  ∀ s : State, s.fault = none → ∃ t, exec .reset s = .next t ∧ exec .reset t = .next t ∧
    t.st = .idle ∧ t.enabled = false ∧ ∀ i, tabRead t.tab i = 1#2

/-- The control fields are written and read, and nothing else of the block changes (42_encoder_control.md R162, R163,
R165, R166; that the getters and setters have no side effect is the spec's choice D20). `modeChanged` is the model's
note of a change inside an open segment (R166(b), log 14). -/
def Obligations.ControlFieldAccess : Prop :=
  ∀ s : State, s.fault = none →
    (∀ b, exec (.setEnabled b) s = .next { s with enabled := b, ret := .unit }) ∧
    exec .getEnabled s = .next { s with ret := .bool s.enabled } ∧
    exec .getMode s = .next { s with ret := .mode s.mode } ∧
    (∀ m, s.st = .idle ∨ m = s.mode → exec (.setMode m) s = .next { s with mode := m, ret := .unit }) ∧
    (∀ m, s.st = .data → m ≠ s.mode →
      exec (.setMode m) s = .next { s with mode := m, modeChanged := true, ret := .unit })

/-- Who writes what (10_state.md R20, every row of its column "written by", with construction apart). The packet rows stand for
the generators that `pushIngress` runs (log 18), `predictor.reset` and `predictor.predict` for its predictor calls (log 24).
The last four clauses are about the model's own: the note `modeChanged` (log 14), the parameters, N among them, that no
operation writes (log 26), and the queue, which `step` alone shortens (log 2). -/
def Obligations.OnlyTheirWritersChangeRegisters : Prop :=
  ∀ (i : Instr) (s t : State), exec i s = .next t → (∀ n, i ≠ .construct n) →
    (t.mode ≠ s.mode → ∃ m, i = .setMode m) ∧
    (t.enabled ≠ s.enabled → i = .reset ∨ ∃ b, i = .setEnabled b) ∧
    (t.st ≠ s.st → i = .reset ∨ (pushedEvent i).isSome) ∧
    (t.stage0 ≠ s.stage0 ∨ t.stage1 ≠ s.stage1 → i = .reset ∨ (pushedEvent i).isSome) ∧
    (t.prevTimestamp ≠ s.prevTimestamp → i = .reset ∨ (pushedEvent i).isSome ∨ i ∈ timestampRows) ∧
    (t.missFlag ≠ s.missFlag → i = .reset ∨ ((pushedEvent i).isSome ∧ s.mode = .prediction)) ∧
    (t.hitCount ≠ s.hitCount → i = .reset ∨ i ∈ hitRows ∨ ((pushedEvent i).isSome ∧ s.mode = .prediction)) ∧
    (t.tab ≠ s.tab → i = .reset ∨ i = .predictorReset ∨ (∃ pc b, i = .predictorPredict pc b) ∨
      ((pushedEvent i).isSome ∧ s.mode = .prediction)) ∧
    (t.sink ≠ s.sink → (pushedEvent i).isSome ∨ i ∈ timestampRows ∨ i ∈ hitRows) ∧
    (t.fault ≠ s.fault → s.fault = none ∧ s.params.assertMode = .fault ∧
      (i ∈ assertingRows ∨ ((pushedEvent i).isSome ∧ s.mode = .prediction))) ∧
    (t.modeChanged ≠ s.modeChanged → i = .reset ∨ (∃ m, i = .setMode m) ∨ (pushedEvent i).isSome) ∧
    t.n = s.n ∧ t.params = s.params ∧ t.inbox = s.inbox

/-- The sink is append-only (20_memory.md R54), and one operation appends at most the 20 bytes of the longest packet
(30_encoding.md R79). That the sink is state is the spec's choice (D2, log 19). -/
def Obligations.SinkOnlyGrows : Prop :=
  ∀ (i : Instr) (s t : State), exec i s = .next t → (∀ n, i ≠ .construct n) →
    ∃ bs : List Byte, t.sink = s.sink ++ bs ∧ bs.length ≤ 20

/-- The register view of the control fields (10_state.md R29; the view is the spec's own, D18, log 21): the read; a write with
the strobe clear, in every state; a write of the strobe alone, which is `reset()` (42_encoder_control.md R161); a write of the
strobe with some of bits [2:0], which resets and leaves the two fields at free values; the reserved bits, which read 0 and are
ignored; a write to a faulted block, whose refusal is the model's choice (log 28). `modeChanged` is the model's note (log 14). -/
def Obligations.RegisterViewOfControlFields : Prop :=
  (∀ s : State, (teCtrlRead s).getLsbD 0 = s.enabled ∧ (teCtrlRead s).extractLsb' 1 2 = modeCode s.mode ∧
    (teCtrlRead s).toNat < 8) ∧
  (∀ (s : State) (m : BranchMode) (b : Bool) (v : U64), s.fault = none → v.getLsbD 0 = b →
    v.extractLsb' 1 2 = modeCode m → v.getLsbD 3 = false →
    (s.st = .idle ∨ m = s.mode → teCtrlWrite v s = .next { s with enabled := b, mode := m, ret := .unit }) ∧
    (s.st = .data → m ≠ s.mode →
      teCtrlWrite v s = .next { s with enabled := b, mode := m, modeChanged := true, ret := .unit })) ∧
  (∀ (s : State) (v : U64), v.extractLsb' 0 4 = 0b1000#4 → teCtrlWrite v s = exec .reset s) ∧
  (∀ (s : State) (v : U64), s.fault = none → v.getLsbD 3 = true → v.extractLsb' 0 3 ≠ 0#3 →
    ∃ (b : Bool) (m : BranchMode) (t : State), exec .reset s = .next t ∧
      teCtrlWrite v s = .next { t with enabled := b, mode := m }) ∧
  (∀ (s : State) (v v' : U64), v.extractLsb' 0 4 = v'.extractLsb' 0 4 → teCtrlWrite v s = teCtrlWrite v' s) ∧
  (∀ (s : State) (f : BlockFault) (v : U64), s.fault = some f → teCtrlWrite v s = .refused .faultedBlock) ∧
  (∀ m : BranchMode, modeOfCode (modeCode m) = m)

/-! ## Packet rows -/

/-- The Sync generator (42_encoder_control.md R171). That the row runs it alone, whatever `st`, `enabled` and `mode`, is the
model's choice (log 18): R169 runs it in two rows of the state table. -/
def Obligations.SyncRowResult : Prop :=
  ∀ s : State, s.fault = none →
    exec .sync s = .next { s with
      sink := s.sink ++ ([encodeFullHeader s.params.chNA s.params.fhSYNC 0#3] ++
        encodeVarint (s.stage0.address >>> 1) ++ encodeVarint s.stage0.timestamp)
      prevTimestamp := s.stage0.timestamp
      ret := .unit }

/-- The Direct rows (43_target_mode.md R193, R194), in both forms, under distinct codes: the delta modulo 2^64 is the
spec's choice (D11, log 16), and that a row whose form does not fit the delta still runs its generator, which chooses
the form, is the model's (log 18). -/
def Obligations.DirectRowResults : Prop :=
  ∀ (s : State) (d : U64), s.fault = none → s.params.wf → d = s.stage1.timestamp - s.prevTimestamp →
    (d.toNat < 64 →
      exec .tbC s = .next { s with
        sink := s.sink ++ [encodeCompressed s.params.chTB (d.setWidth 6)]
        prevTimestamp := s.stage1.timestamp, ret := .unit } ∧
      exec .ntC s = .next { s with
        sink := s.sink ++ [encodeCompressed s.params.chNT (d.setWidth 6)]
        prevTimestamp := s.stage1.timestamp, ret := .unit } ∧
      exec .ijC s = .next { s with
        sink := s.sink ++ [encodeCompressed s.params.chIJ (d.setWidth 6)]
        prevTimestamp := s.stage1.timestamp, ret := .unit }) ∧
    (64 ≤ d.toNat →
      exec .tbF s = .next { s with
        sink := s.sink ++ ([encodeFullHeader s.params.chNA s.params.fhTB 0#3] ++ encodeVarint d)
        prevTimestamp := s.stage1.timestamp, ret := .unit } ∧
      exec .ntF s = .next { s with
        sink := s.sink ++ ([encodeFullHeader s.params.chNA s.params.fhNT 0#3] ++ encodeVarint d)
        prevTimestamp := s.stage1.timestamp, ret := .unit } ∧
      exec .ijF s = .next { s with
        sink := s.sink ++ ([encodeFullHeader s.params.chNA s.params.fhIJ 0#3] ++ encodeVarint d)
        prevTimestamp := s.stage1.timestamp, ret := .unit }) ∧
    exec .tbC s = exec .tbF s ∧ exec .ntC s = exec .ntF s ∧ exec .ijC s = exec .ijF s

/-- The uninferable-jump generator (43_target_mode.md R195): the XOR of the two staged addresses, never compressed. The delta
modulo 2^64 is the spec's choice (D11, log 16); that the row runs the generator alone, whatever the mode, `st` and `enabled`,
is the model's (log 18). -/
def Obligations.UninferableJumpRowResult : Prop :=
  ∀ s : State, s.fault = none →
    exec .uj s = .next { s with
      sink := s.sink ++ ([encodeFullHeader s.params.chNA s.params.fhUJ 0#3] ++
        encodeVarint ((s.stage0.address >>> 1) ^^^ (s.stage1.address >>> 1)) ++
        encodeVarint (s.stage1.timestamp - s.prevTimestamp))
      prevTimestamp := s.stage1.timestamp
      ret := .unit }

/-- The three Trap generators (43_target_mode.md R196), and their header bytes at the default codes (D8, log 6). The delta
modulo 2^64 is the spec's choice (D11, log 16); that a row runs its generator alone, whatever the mode, `st` and `enabled`, is
the model's (log 18). -/
def Obligations.TrapRowResults : Prop :=
  (∀ s : State, s.fault = none →
    ∀ (i : Instr) (tt : TTCode),
      (i = .trapE ∧ tt = s.params.ttEXCEPTION) ∨ (i = .trapI ∧ tt = s.params.ttINTERRUPT) ∨
        (i = .trapR ∧ tt = s.params.ttTRAPRETURN) →
      exec i s = .next { s with
        sink := s.sink ++ ([encodeFullHeader s.params.chNA s.params.fhTRAP tt] ++
          encodeVarint ((s.stage0.address >>> 1) ^^^ (s.stage1.address >>> 1)) ++
          encodeVarint (s.stage1.timestamp - s.prevTimestamp))
        prevTimestamp := s.stage1.timestamp
        ret := .unit }) ∧
  encodeFullHeader defaultParams.chNA defaultParams.fhTRAP defaultParams.ttEXCEPTION = 0x32#8 ∧
  encodeFullHeader defaultParams.chNA defaultParams.fhTRAP defaultParams.ttINTERRUPT = 0x52#8 ∧
  encodeFullHeader defaultParams.chNA defaultParams.fhTRAP defaultParams.ttTRAPRETURN = 0x92#8

/-- The Hit rows (44_prediction_mode.md R213): the count in either form, then 0, the baseline unmoved; a count of 0 emits
nothing (95_test_vectors.md H6); a failed invariant is recorded and nothing emitted (60_exceptions.md R241; D16, log 12). The
codes are D7's (log 7); that the two rows run one generator and check neither the mode nor the flush is log 18. -/
def Obligations.HitRowResults : Prop :=
  ∀ s : State, s.fault = none → s.params.wf →
    exec .hitC s = exec .hitF s ∧
    (s.hitCount = 0 → exec .hitC s = .next { s with ret := .unit }) ∧
    (s.hitCount ≠ 0 →
      (s.missFlag = false ∧
        (s.stage1.kind = .branchTaken ∨ s.stage1.kind = .branchNotTaken ∨ s.stage1.kind = .none)) ∨
        s.params.assertMode = .continue →
      (s.hitCount.toNat < 64 → exec .hitC s = .next { s with
        sink := s.sink ++ [encodeCompressed s.params.chTB (s.hitCount.setWidth 6)], hitCount := 0, ret := .unit }) ∧
      (64 ≤ s.hitCount.toNat → exec .hitF s = .next { s with
        sink := s.sink ++ ([encodeFullHeader s.params.chNA s.params.fhTB 0#3] ++ encodeVarint s.hitCount)
        hitCount := 0, ret := .unit })) ∧
    (s.hitCount ≠ 0 → s.params.assertMode = .fault →
      ¬ (s.missFlag = false ∧
        (s.stage1.kind = .branchTaken ∨ s.stage1.kind = .branchNotTaken ∨ s.stage1.kind = .none)) →
      exec .hitC s = .next { s with fault := some .hitInvariant, ret := .unit })

/-- The Miss rows (44_prediction_mode.md R214): a Direct packet of `stage1` when the invariant holds, else the recorded fault
(60_exceptions.md R242; D16, log 12). The codes are D7's (log 7), the delta modulo 2^64 D11's (log 16); that the two rows run
one generator and do not look at `missFlag` is log 18. -/
def Obligations.MissRowResults : Prop :=
  ∀ (s : State) (d : U64), s.fault = none → s.params.wf → d = s.stage1.timestamp - s.prevTimestamp →
    exec .missC s = exec .missF s ∧
    (((s.stage1.kind = .branchTaken ∨ s.stage1.kind = .branchNotTaken) ∧ (s.hitCount = 0 ∨ s.hitCount = 1)) ∨
        s.params.assertMode = .continue →
      (d.toNat < 64 → exec .missC s = .next { s with
        sink := s.sink ++ [encodeCompressed s.params.chNT (d.setWidth 6)]
        prevTimestamp := s.stage1.timestamp, ret := .unit }) ∧
      (64 ≤ d.toNat → exec .missF s = .next { s with
        sink := s.sink ++ ([encodeFullHeader s.params.chNA s.params.fhNT 0#3] ++ encodeVarint d)
        prevTimestamp := s.stage1.timestamp, ret := .unit })) ∧
    (s.params.assertMode = .fault →
      ¬ ((s.stage1.kind = .branchTaken ∨ s.stage1.kind = .branchNotTaken) ∧ (s.hitCount = 0 ∨ s.hitCount = 1)) →
      exec .missC s = .next { s with fault := some .missInvariant, ret := .unit })

/-! ## Calls of pushIngress -/

/-- R168: the first action of every call, whatever the state, the mode and the rest of the call; in the calls that do nothing
else it is all that happens. -/
def Obligations.EveryCallShiftsThePipeline : Prop :=
  (∀ (e : IngressEvent) (s t : State), exec (.pushIngress e) s = .next t → t.stage0 = e ∧ t.stage1 = s.stage0) ∧
  (∀ (e : IngressEvent) (s : State), s.fault = none → s.st = .idle → s.enabled = false →
    exec (.pushIngress e) s = .next { s with stage1 := s.stage0, stage0 := e, ret := .unit })

/-- The state table (42_encoder_control.md R169) on the shifted pipeline (R168): action and state after, row by row. The
note `modeChanged` that a transition drops is the model's own (log 14). -/
def Obligations.StateTableRows : Prop :=
  ∀ (e : IngressEvent) (s : State), s.fault = none →
    (s.st = .idle → s.enabled = false →
      exec (.pushIngress e) s = .next { s with stage1 := s.stage0, stage0 := e, ret := .unit }) ∧
    (s.st = .idle → s.enabled = true →
      exec (.pushIngress e) s = .next { s with
        stage1 := s.stage0, stage0 := e, st := .data, modeChanged := false
        sink := s.sink ++ encodePacket s.params (.sync (e.address >>> 1) e.timestamp)
        prevTimestamp := e.timestamp, ret := .unit }) ∧
    (s.st = .data → s.enabled = true →
      exec (.pushIngress e) s = dataStep { s with stage1 := s.stage0, stage0 := e } ∧
      ∀ t, exec (.pushIngress e) s = .next t → t.st = .data) ∧
    (s.st = .data → s.enabled = false →
      exec (.pushIngress e) s = .next { s with
        stage1 := s.stage0, stage0 := e, st := .idle, modeChanged := false
        sink := s.sink ++ encodePacket s.params (.sync (e.address >>> 1) e.timestamp)
        prevTimestamp := e.timestamp, ret := .unit })

/-- An event row is a `pushIngress` of an event of its kind (30_encoding.md R97, whose numbering is the spec's own, log 8),
and, like any call, it completes in both idle rows of the state table. -/
def Obligations.EventRowsPushTheirKind : Prop :=
  ∀ (a t : U64) (s : State) (i : Instr) (k : EventKind),
    (i, k) ∈ [(Instr.eventNONE a t, EventKind.none), (.eventBT a t, .branchTaken), (.eventBNT a t, .branchNotTaken),
      (.eventIJ a t, .jumpInferable), (.eventUJ a t, .jumpUninferable), (.eventEXC a t, .exception),
      (.eventINT a t, .interrupt), (.eventRET a t, .trapReturn)] →
    exec i s = exec (.pushIngress ⟨a, t, k⟩) s ∧
    (s.fault = none → s.st = .idle → s.enabled = false →
      exec i s = .next { s with stage1 := s.stage0, stage0 := ⟨a, t, k⟩, ret := .unit }) ∧
    (s.fault = none → s.st = .idle → s.enabled = true →
      exec i s = .next { s with
        stage1 := s.stage0, stage0 := ⟨a, t, k⟩, st := .data, modeChanged := false
        sink := s.sink ++ encodePacket s.params (.sync (a >>> 1) t)
        prevTimestamp := t, ret := .unit })

/-- Enabling and then immediately disabling emits exactly two Sync packets and returns to `Idle` (95_test_vectors.md S4,
42_encoder_control.md R170), whatever the mode and the accounting state. -/
def Obligations.EnableThenDisableEmitsTwoSyncs : Prop :=
  ∀ (s : State) (e e' : IngressEvent), s.fault = none → s.st = .idle →
    ∃ s1 s2 s3 t,
      exec (.setEnabled true) s = .next s1 ∧ exec (.pushIngress e) s1 = .next s2 ∧
      exec (.setEnabled false) s2 = .next s3 ∧ exec (.pushIngress e') s3 = .next t ∧
      t.st = .idle ∧ t.hitCount = s.hitCount ∧ t.missFlag = s.missFlag ∧ t.tab = s.tab ∧
      t.sink = s.sink ++ encodePacket s.params (.sync (e.address >>> 1) e.timestamp) ++
        encodePacket s.params (.sync (e'.address >>> 1) e'.timestamp)

/-- The Target Mode table (43_target_mode.md R191), on the kind of the event pushed by the previous call; `None` changes nothing
but the pipeline. The delta modulo 2^64 is the spec's choice (D11, log 16). -/
def Obligations.TargetModeTable : Prop :=
  ∀ (e : IngressEvent) (s : State), RunsDataStep .target s →
    exec (.pushIngress e) s = .next { s with
      stage1 := s.stage0
      stage0 := e
      sink := s.sink ++ packetBytes s.params (tracedPacket .target s.stage0 e s.prevTimestamp)
      prevTimestamp := if s.stage0.kind = .none then s.prevTimestamp else s.stage0.timestamp
      ret := .unit }

/-- R211: the predict sub-stage, row by row: the predictor, the count, the two local flags, and nothing else. -/
def Obligations.PredictSubStageTable : Prop :=
  ∀ (s : State) (i : Nat) (taken : Bool) (row : Bool × Cell), tabWf s.n s.tab = true →
    i = s.stage0.address.toNat / 2 % s.n → taken = decide (s.stage0.kind = .branchTaken) →
    row = predictTable (tabRead s.tab i) taken →
    (s.stage0.kind = .branchTaken ∨ s.stage0.kind = .branchNotTaken →
      ∃ tab' : Table, tabRead tab' i = row.2 ∧ (∀ j, j ≠ i → tabRead tab' j = tabRead s.tab j) ∧
        (row.1 = true → predictStage s = { s with tab := tab', hitCount := s.hitCount + 1 } ∧
          pendingMiss s = false ∧ forceFlush s = false) ∧
        (row.1 = false → predictStage s = { s with tab := tab' } ∧ pendingMiss s = true ∧ forceFlush s = true)) ∧
    (s.stage0.kind = .jumpInferable ∨ s.stage0.kind = .jumpUninferable ∨ s.stage0.kind = .exception ∨
        s.stage0.kind = .interrupt ∨ s.stage0.kind = .trapReturn →
      predictStage s = s ∧ pendingMiss s = false ∧ forceFlush s = true) ∧
    (s.stage0.kind = .none → predictStage s = s ∧ pendingMiss s = false ∧ forceFlush s = false)

/-- The first arm of the generate sub-stage (44_prediction_mode.md R212, R213): a pending count goes first, and the new
miss state is committed last (R218). Where the invariant fails, `ASSERT_MODE = continue` runs on (D16, log 12). -/
def Obligations.HitArmFlushesThePendingCount : Prop :=
  ∀ (e : IngressEvent) (s w mid : State), RunsDataStep .prediction s → w = { s with stage1 := s.stage0, stage0 := e } →
    mid = predictStage w → forceFlush w = true → mid.hitCount ≠ 0 →
    (s.missFlag = false ∧ (s.stage0.kind = .branchTaken ∨ s.stage0.kind = .branchNotTaken ∨ s.stage0.kind = .none)) ∨
      s.params.assertMode = .continue →
    exec (.pushIngress e) s = .next { mid with
      sink := s.sink ++ encodePacket s.params (.hit mid.hitCount)
      hitCount := 0, missFlag := pendingMiss w, ret := .unit }

/-- The second arm (44_prediction_mode.md R212, R214): the miss committed by the previous call is reported from `stage1`,
not this call's. Where the invariant fails, `ASSERT_MODE = continue` runs on (D16, log 12). -/
def Obligations.MissArmReportsThePreviousCallsMiss : Prop :=
  ∀ (e : IngressEvent) (s w mid : State), RunsDataStep .prediction s → w = { s with stage1 := s.stage0, stage0 := e } →
    mid = predictStage w → ¬ (forceFlush w = true ∧ mid.hitCount ≠ 0) → s.missFlag = true →
    ((s.stage0.kind = .branchTaken ∨ s.stage0.kind = .branchNotTaken) ∧ (mid.hitCount = 0 ∨ mid.hitCount = 1)) ∨
      s.params.assertMode = .continue →
    exec (.pushIngress e) s = .next { mid with
      sink := s.sink ++ encodePacket s.params (.miss (s.stage0.timestamp - s.prevTimestamp))
      prevTimestamp := s.stage0.timestamp, missFlag := pendingMiss w, ret := .unit }

/-- The third arm (44_prediction_mode.md R216): jumps and traps as in Target Mode, branches and `None` nothing, then the commit
(R218). The delta modulo 2^64 is the spec's choice (D11, log 16). -/
def Obligations.ThirdArmDispatchesJumpsAndTraps : Prop :=
  ∀ (e : IngressEvent) (s w mid : State), RunsDataStep .prediction s → w = { s with stage1 := s.stage0, stage0 := e } →
    mid = predictStage w → ¬ (forceFlush w = true ∧ mid.hitCount ≠ 0) → s.missFlag = false →
    exec (.pushIngress e) s = .next { mid with
      sink := s.sink ++ packetBytes s.params (tracedPacket .prediction s.stage0 e s.prevTimestamp)
      prevTimestamp :=
        if s.stage0.kind = .none ∨ s.stage0.kind = .branchTaken ∨ s.stage0.kind = .branchNotTaken then s.prevTimestamp
        else s.stage0.timestamp
      missFlag := pendingMiss w, ret := .unit }

/-- The commit of `missFlag` (44_prediction_mode.md R218, 10_state.md R33): the generate sub-stage runs on a state that still
holds the old flag, and this call's `pendingMiss` is written to what that sub-stage leaves, nothing else; a fault of the
sub-stage comes first and the old flag stays (60_exceptions.md R247; that it answers a next state is D16, log 12); a call that
runs no such data step leaves the flag. -/
def Obligations.MissFlagIsCommittedLast : Prop :=
  (∀ (e : IngressEvent) (s w mid g : State), RunsDataStep .prediction s → w = { s with stage1 := s.stage0, stage0 := e } →
    mid = predictStage w → g = generateStage (forceFlush w) mid →
    mid.missFlag = s.missFlag ∧ g.missFlag = s.missFlag ∧
    (g.fault = none → exec (.pushIngress e) s = .next { g with missFlag := pendingMiss w, ret := .unit }) ∧
    (g.fault ≠ none → exec (.pushIngress e) s = .next { g with ret := .unit })) ∧
  (∀ (e : IngressEvent) (s t : State), ¬ RunsDataStep .prediction s → exec (.pushIngress e) s = .next t →
    t.missFlag = s.missFlag)

/-- Taking a fault of the block (60_exceptions.md R241, R242, R247; `ASSERT_MODE = fault` and the sticky record are the
spec's choice D16, log 12): the shift and the predict sub-stage stay, the record is written, nothing is appended, and
neither `prevTimestamp`, `hitCount` nor `missFlag` is written by what was cut short. -/
def Obligations.BrokenInvariantsAreRecordedAsFaults : Prop :=
  ∀ (e : IngressEvent) (s w mid : State), RunsDataStep .prediction s → s.params.assertMode = .fault →
    w = { s with stage1 := s.stage0, stage0 := e } → mid = predictStage w →
    (forceFlush w = true → mid.hitCount ≠ 0 →
      ¬ (s.missFlag = false ∧
        (s.stage0.kind = .branchTaken ∨ s.stage0.kind = .branchNotTaken ∨ s.stage0.kind = .none)) →
      exec (.pushIngress e) s = .next { mid with fault := some .hitInvariant, ret := .unit }) ∧
    (¬ (forceFlush w = true ∧ mid.hitCount ≠ 0) → s.missFlag = true →
      ¬ ((s.stage0.kind = .branchTaken ∨ s.stage0.kind = .branchNotTaken) ∧ (mid.hitCount = 0 ∨ mid.hitCount = 1)) →
      exec (.pushIngress e) s = .next { mid with fault := some .missInvariant, ret := .unit })

/-- A faulted block accepts no further operation (60_exceptions.md R247, R250; D16, log 12): only a construction starts
anew, and the pure functions, which ask nothing of the block (log 13), return their result and change nothing. -/
def Obligations.FaultedBlockStaysFaulted : Prop :=
  ∀ (i : Instr) (s t : State) (f : BlockFault), s.fault = some f → exec i s = .next t →
    (∃ n, i = .construct n) ∨ (t.fault = some f ∧ t = { s with ret := t.ret })

/-- The operations a faulted block refuses (60_exceptions.md R247; 95_test_vectors.md X4; log 12); that the generators and
the predictor's two effects, requested by themselves (log 24), are refused too is the model's. -/
def Obligations.FaultedBlockRefusesOperations : Prop :=
  ∀ (s : State) (f : BlockFault), s.fault = some f →
    exec .reset s = .refused .faultedBlock ∧
    (∀ b, exec (.setEnabled b) s = .refused .faultedBlock) ∧
    exec .getEnabled s = .refused .faultedBlock ∧
    (∀ m, exec (.setMode m) s = .refused .faultedBlock) ∧
    exec .getMode s = .refused .faultedBlock ∧
    (∀ pc, exec (.predictorPeek pc) s = .refused .faultedBlock) ∧
    (∀ i, (pushedEvent i).isSome → exec i s = .refused .faultedBlock) ∧
    exec .predictorReset s = .refused .faultedBlock ∧
    (∀ pc b, exec (.predictorPredict pc b) s = .refused .faultedBlock) ∧
    (∀ i ∈ [Instr.sync, .tbC, .tbF, .ntC, .ntF, .ijC, .ijF, .uj, .trapE, .trapI, .trapR, .hitC, .hitF, .missC, .missF],
      exec i s = .refused .faultedBlock)

/-- A data step under `HistoryMode` or `Reserved` has no result (30_encoding.md R96; the refusal is the spec's choice D12,
log 15); a call that runs no data step is defined under every mode, which `StateTableRows` says. -/
def Obligations.ReservedModesHaveNoDataStep : Prop :=
  ∀ (e : IngressEvent) (s : State) (m : BranchMode), m = .history ∨ m = .reserved → RunsDataStep m s →
    exec (.pushIngress e) s = .refused .reservedMode

/-- After a change of mode inside an open segment every data step of that segment is refused (42_encoder_control.md
R166(b), 70_reset_and_hazards.md R281; the refusal is the spec's choice D17, the note the model's, log 14): the change sets the
note, and writing the old value back does not clear it; with the note set, every call that would run a data step is refused,
in every form; and while the segment is open only the call that closes it, `reset()` and a construction clear the note. -/
def Obligations.ModeChangeMidSegmentEndsDataSteps : Prop :=
  (∀ (s : State) (m : BranchMode), s.fault = none → s.st = .data → m ≠ s.mode →
    ∃ s1 s2, exec (.setMode m) s = .next s1 ∧ s1.modeChanged = true ∧ s1.st = .data ∧
      exec (.setMode s.mode) s1 = .next s2 ∧ s2.modeChanged = true ∧ s2.st = .data ∧ s2.mode = s.mode) ∧
  (∀ (i : Instr) (s : State), s.fault = none → s.st = .data → s.enabled = true → s.modeChanged = true →
    (pushedEvent i).isSome → exec i s = .refused .modeChangedMidSegment) ∧
  (∀ (i : Instr) (s t : State), exec i s = .next t → s.st = .data → s.modeChanged = true →
    (t.st = .data ∧ t.modeChanged = true) ∨ i = .reset ∨ (∃ n, i = .construct n) ∨
      ((pushedEvent i).isSome ∧ s.enabled = false ∧ t.st = .idle))

/-! ## Whole-machine rules -/

/-- R57: a call appends nothing or exactly one whole packet, one that its mode can emit. -/
def Obligations.AtMostOnePacketPerCall : Prop :=
  ∀ (i : Instr) (e : IngressEvent) (s t : State), pushedEvent i = some e → exec i s = .next t →
    t.sink = s.sink ∨ ∃ q : Packet, q.wf ∧ q.inMode s.mode ∧ t.sink = s.sink ++ encodePacket s.params q

/-- The baseline moves only when a timestamp-bearing packet is emitted, and then to the timestamp of the event whose packet
it is (10_state.md R31; that the Hit packet does not move it is derived there). `reset` and construction clear it. -/
def Obligations.BaselineMovesOnlyWithATimestamp : Prop :=
  ∀ (i : Instr) (s t : State), exec i s = .next t → i ≠ .reset → (∀ n, i ≠ .construct n) →
    t.prevTimestamp ≠ s.prevTimestamp →
    ∃ q : Packet, t.sink = s.sink ++ encodePacket s.params q ∧ (∀ c, q ≠ .hit c) ∧
      ((∃ a ts, q = .sync a ts ∧ t.prevTimestamp = t.stage0.timestamp) ∨
       ((∀ a ts, q ≠ .sync a ts) ∧ t.prevTimestamp = t.stage1.timestamp))

/-- Bit 0 of an address is never observable (10_state.md R25, 20_memory.md R55): from states that differ at most there, a
call with events that differ at most there ends the same way, in states that differ at most there. -/
def Obligations.AddressBit0IsUnobservable : Prop :=
  ∀ (e e' : IngressEvent) (s s' : State), AgreeUpToBit0 s s' → SameUpToBit0 e e' →
    match exec (.pushIngress e) s, exec (.pushIngress e') s' with
    | .next t, .next t' => AgreeUpToBit0 t t'
    | .refused r, .refused r' => r = r'
    | .fault f, .fault f' => f = f'
    | _, _ => False

/-- The state after reset: the values of 10_state.md R38, column "after construction" (D13, D14; log 9, log 10), the default
N, nothing requested. -/
def Obligations.ResetStateValues : Prop :=
  State.reset.st = .idle ∧ State.reset.enabled = false ∧ State.reset.mode = .target ∧
  State.reset.stage0 = ⟨0, 0, .none⟩ ∧ State.reset.stage1 = ⟨0, 0, .none⟩ ∧ State.reset.prevTimestamp = 0 ∧
  State.reset.hitCount = 0 ∧ State.reset.missFlag = false ∧ State.reset.n = 1024 ∧
  (∀ i, tabRead State.reset.tab i = 1#2) ∧ State.reset.sink = [] ∧ State.reset.fault = none ∧ State.reset.inbox = []

/-- The invariants hold at reset (log 20, log 26). -/
def Obligations.ResetStateMeetsTheInvariants : Prop :=
  State.reset.Wf ∧ WholePackets State.reset ∧ CleanAccounting State.reset

/-- The invariant every step keeps: distinct codes, at least one cell (60_exceptions.md R244), every listed cell inside the
table and the table canonical (10_state.md R35, log 20). -/
def Obligations.StepKeepsStateWf : Prop :=
  ∀ s t : State, s.Wf → step s = .next t → t.Wf

/-- The sink holds only whole packets (60_exceptions.md R247, 20_memory.md R57), after every step of every instruction. -/
def Obligations.StepKeepsWholePackets : Prop :=
  ∀ s t : State, WholePackets s → step s = .next t → WholePackets t

/-- In a segment with clean accounting neither invariant fails, however long it is and whatever is pushed
(44_prediction_mode.md R219, derived there): every call completes without a fault, in Prediction Mode, and the accounting
stays clean. A segment that opens with `hitCount = 0` and `missFlag = false` is clean. -/
def Obligations.CleanSegmentNeverFaults : Prop :=
  (∀ (es : List IngressEvent) (s : State), RunsDataStep .prediction s → CleanAccounting s →
    ∃ t, pushEvents es s = .next t ∧ RunsDataStep .prediction t ∧ CleanAccounting t) ∧
  (∀ (e : IngressEvent) (s t : State), s.st = .idle → s.enabled = true → s.mode = .prediction → s.hitCount = 0 →
    s.missFlag = false → exec (.pushIngress e) s = .next t → RunsDataStep .prediction t ∧ CleanAccounting t)

/-- A Target Mode segment, of any length: its bytes are the packets of its events, each reported one call late
(42_encoder_control.md R174, 43_target_mode.md R191), and the checking decoder reads exactly those packets back. -/
def Obligations.TargetSegmentTracesItsEvents : Prop :=
  ∀ (es : List IngressEvent) (s : State) (qs : List Packet), RunsDataStep .target s → s.params.wf →
    qs = targetTrace s.prevTimestamp s.stage0 es →
    ∃ t bs, pushEvents es s = .next t ∧ RunsDataStep .target t ∧ t.sink = s.sink ++ bs ∧
      bs = qs.flatMap (encodePacket s.params) ∧ decodeStream s.params .target qs.length bs = .ok qs [] ∧
      t.hitCount = s.hitCount ∧ t.missFlag = s.missFlag ∧ t.tab = s.tab

/-! ## The step -/

/-- A step takes the owner's next request, decodes it and runs it (log 2): the meaning sees the queue without it. A word
that decodes to nothing is refused by name (log 4). With no request nothing changes (92_eei_decisions.md D4, log 2). -/
def Obligations.StepRunsTheNextRequest : Prop :=
  (∀ (s : State) (r : Request) (rs : List Request) (i : Instr) (rest : List Byte), s.inbox = r :: rs →
    readRequest r = .ok i rest → step s = exec i { s with inbox := rs }) ∧
  (∀ (s : State) (r : Request) (rs : List Request) (e : DecodeError), s.inbox = r :: rs →
    readRequest r = .bad e → step s = .refused (.undecodable e)) ∧
  (∀ s : State, s.inbox = [] → step s = .next s) ∧
  (∀ (s : State) (nbits w : Nat) (i : Instr), decodeTableWord nbits w = some i →
    step (s.withFetchWord nbits w) = exec i s)
end

