-- ==== Sys2Proof/Laws/Codec.lean ====
section
/-! SUPPORT. The codec, said once: the highest bit and the length of a varint as bounds on the value, the bits of a varint's
bytes, the fields of the two header bytes, the bytes of a packet by its value. -/

namespace Sys2Proof.Machine

/-! ## The highest set bit -/

theorem highestBitBelow_cases (x : U64) (n : Nat) :
    (highestBitBelow x n = -1 ∧ ∀ i < n, x.getLsbD i = false) ∨
    ∃ j : Nat, highestBitBelow x n = j ∧ j < n ∧ x.getLsbD j = true ∧ ∀ i, j < i → i < n → x.getLsbD i = false := by
  induction n with
  | zero => exact .inl ⟨rfl, by omega⟩
  | succ k ih =>
    unfold highestBitBelow
    split
    · exact .inr ⟨k, rfl, by omega, by assumption, fun i _ _ => by omega⟩
    · rename_i hk
      have hk : x.getLsbD k = false := by simpa using hk
      rcases ih with ⟨h1, h2⟩ | ⟨j, h1, h2, h3, h4⟩
      · refine .inl ⟨h1, fun i hi => ?_⟩
        rcases Nat.lt_succ_iff_lt_or_eq.1 hi with h | rfl
        · exact h2 i h
        · exact hk
      · refine .inr ⟨j, h1, by omega, h3, fun i hi hi2 => ?_⟩
        rcases Nat.lt_succ_iff_lt_or_eq.1 hi2 with h | rfl
        · exact h4 i hi h
        · exact hk

/-- The index of the highest set bit bounds the value from both sides. -/
theorem mostSignificantBitIndex_bounds {x : U64} (hx : x ≠ 0) :
    ∃ j : Nat, mostSignificantBitIndex x = j ∧ j < 64 ∧ 2 ^ j ≤ x.toNat ∧ x.toNat < 2 ^ (j + 1) := by
  rcases highestBitBelow_cases x 64 with ⟨-, h2⟩ | ⟨j, h1, h2, h3, h4⟩
  · exact absurd (BitVec.eq_of_getLsbD_eq fun i hi => by simp [h2 i hi]) hx
  · refine ⟨j, h1, h2, Nat.ge_two_pow_of_testBit h3, Nat.lt_pow_two_of_testBit _ fun i hi => ?_⟩
    by_cases h : i < 64
    · exact h4 i (by omega) h
    · exact BitVec.getLsbD_of_ge x i (by omega)

/-! ## Varints -/

theorem byteCount_natCast (j : Nat) : byteCount (j : Int) = ((j / 7 + 1 : Nat) : Int) := by
  unfold byteCount
  rw [Int.tdiv_eq_ediv_of_nonneg (by omega)]
  omega

theorem varintLength_zero : varintLength 0 = 1 := by decide

theorem varintLength_bounds {v : U64} (hv : v ≠ 0) :
    ∃ j : Nat, varintLength v = j / 7 + 1 ∧ j < 64 ∧ 2 ^ j ≤ v.toNat ∧ v.toNat < 2 ^ (j + 1) := by
  obtain ⟨j, h1, h2, h3, h4⟩ := mostSignificantBitIndex_bounds hv
  refine ⟨j, ?_, h2, h3, h4⟩
  rw [varintLength, h1, byteCount_natCast]
  rfl

theorem varintLength_pos (v : U64) : 1 ≤ varintLength v := by
  by_cases h : v = 0
  · rw [h, varintLength_zero]
  · obtain ⟨j, e, -⟩ := varintLength_bounds h
    omega

theorem varintLength_le (v : U64) : varintLength v ≤ 10 := by
  by_cases h : v = 0
  · rw [h, varintLength_zero]
    omega
  · obtain ⟨j, e, hj, -⟩ := varintLength_bounds h
    omega

/-- A value fits the payload bits of its varint. -/
theorem lt_two_pow_varintLength (v : U64) : v.toNat < 2 ^ (7 * varintLength v) := by
  by_cases h : v = 0
  · rw [h]
    decide
  · obtain ⟨j, e, -, -, b⟩ := varintLength_bounds h
    exact lt_of_lt_of_le b (Nat.pow_le_pow_right (by norm_num) (by omega))

theorem encodeVarint_length (v : U64) : (encodeVarint v).length = varintLength v := by
  simp [encodeVarint]

theorem varintByte_getLsbD (v : U64) (n i k : Nat) (hk : k < 7) :
    (varintByte v n i).getLsbD k = v.getLsbD (7 * i + k) := by
  have h1 : (0x7F#8).getLsbD k = true := by interval_cases k <;> decide
  have h2 : (0x80#8).getLsbD k = false := by interval_cases k <;> decide
  have h3 : k < 8 := by omega
  unfold varintByte
  simp only
  split
  · rw [BitVec.getLsbD_or, BitVec.getLsbD_and, BitVec.getLsbD_setWidth, h1, h2]
    simp [h3]
  · rw [BitVec.getLsbD_and, BitVec.getLsbD_setWidth, h1]
    simp [h3]

/-- Only the last byte of a varint has bit 7 set. -/
theorem varintByte_getLsbD_seven (v : U64) (n i : Nat) : (varintByte v n i).getLsbD 7 = decide (i + 1 = n) := by
  unfold varintByte
  simp only
  split <;> simp_all

/-! ## Compressible values -/

theorem isCompressible_eq (d : U64) : isCompressible d = decide (d.toNat < 64) := by
  unfold isCompressible
  by_cases h : d = 0
  · rw [h]
    decide
  · obtain ⟨j, e, -, a, b⟩ := mostSignificantBitIndex_bounds h
    rw [e, decide_eq_decide]
    constructor
    · intro h
      have h6 : j + 1 ≤ 6 := by omega
      exact lt_of_lt_of_le b (Nat.pow_le_pow_right (by norm_num) h6)
    · intro h
      have : j < 6 := (Nat.pow_lt_pow_iff_right (by norm_num : 1 < 2)).1 (lt_of_le_of_lt a (by simpa using h))
      omega

/-! ## Header bytes -/

theorem encodeCompressed_header (ch : CHCode) (v : SmallValue) : (encodeCompressed ch v).extractLsb' 0 2 = ch := by
  revert ch v
  decide

theorem encodeCompressed_value (ch : CHCode) (v : SmallValue) : (encodeCompressed ch v).extractLsb' 2 6 = v := by
  revert ch v
  decide

theorem encodeFullHeader_header (ch : CHCode) (fh : FHCode) (tt : TTCode) :
    (encodeFullHeader ch fh tt).extractLsb' 0 2 = ch := by
  revert ch fh tt
  decide

theorem encodeFullHeader_full (ch : CHCode) (fh : FHCode) (tt : TTCode) :
    (encodeFullHeader ch fh tt).extractLsb' 2 3 = fh := by
  revert ch fh tt
  decide

theorem encodeFullHeader_trap (ch : CHCode) (fh : FHCode) (tt : TTCode) :
    (encodeFullHeader ch fh tt).extractLsb' 5 3 = tt := by
  revert ch fh tt
  decide

/-! ## The bytes of packets -/

theorem shortBytes_compressed {p : Params} {fh : FHCode} {v : U64} (h : v.toNat < 64) :
    shortBytes p fh v = [encodeCompressed (compressedHeaderFor p fh) (v.setWidth 6)] := by
  simp [shortBytes, shapeFor, isCompressible_eq, h, encodePacketRecord, shortRecord]

theorem shortBytes_full {p : Params} {fh : FHCode} {v : U64} (h : 64 ≤ v.toNat) :
    shortBytes p fh v = encodeFullHeader p.chNA fh ttNone :: encodeVarint v := by
  simp [shortBytes, shapeFor, isCompressible_eq, Nat.not_lt.2 h, encodePacketRecord, shortRecord]

theorem longBytes_eq (p : Params) (fh : FHCode) (tt : TTCode) (a t : U64) :
    longBytes p fh tt a t = encodeFullHeader p.chNA fh tt :: (encodeVarint a ++ encodeVarint t) := rfl

/-! ## Events at the ingress port -/

theorem kindOfCode_kindCode (k : EventKind) : kindOfCode (kindCode k) = k := by
  cases k <;> rfl

theorem readWord_wordBytes (w : U64) (rest : List Byte) : readWord (wordBytes w ++ rest) = some (w, rest) := by
  unfold wordBytes
  simp only [List.cons_append, List.nil_append, readWord, Option.some.injEq, Prod.mk.injEq, and_true]
  apply BitVec.eq_of_getLsbD_eq
  intro i hi
  simp only [BitVec.getLsbD_append, BitVec.getLsbD_extractLsb']
  split_ifs <;> (rw [decide_eq_true (by omega), Bool.true_and]; congr 1; omega)

theorem decodeEvent_encodeEvent (k : EventKind) (a t : U64) (rest : List Byte) :
    decodeEvent (encodeEvent k a t ++ rest) = .ok (eventRow k a t) rest := by
  have h1 : ((kindCode k).setWidth 8).extractLsb' 3 5 = 0#5 := by cases k <;> rfl
  have h2 : kindOfCode (((kindCode k).setWidth 8).extractLsb' 0 3) = k := by cases k <;> rfl
  unfold encodeEvent
  rw [List.cons_append, List.append_assoc]
  simp only [decodeEvent, h1, h2, readWord_wordBytes]
  simp

end Sys2Proof.Machine
end

