-- ==== Sys2Proof/Laws/Exec.lean ====
section
/-! SUPPORT. One equation for each arm of exec: the instruction's meaning in terms of the shared operations, true by rfl.
Proofs rewrite with these and never unfold exec. -/

namespace Sys2Proof.Machine

theorem exec_sync (s : State) :
    exec .sync s = accepting (fun s => returns .unit (genSync s)) s := rfl

theorem exec_tbC (s : State) :
    exec .tbC s = accepting (fun s => returns .unit (genDirect .tb s)) s := rfl

theorem exec_tbF (s : State) :
    exec .tbF s = accepting (fun s => returns .unit (genDirect .tb s)) s := rfl

theorem exec_ntC (s : State) :
    exec .ntC s = accepting (fun s => returns .unit (genDirect .nt s)) s := rfl

theorem exec_ntF (s : State) :
    exec .ntF s = accepting (fun s => returns .unit (genDirect .nt s)) s := rfl

theorem exec_ijC (s : State) :
    exec .ijC s = accepting (fun s => returns .unit (genDirect .ij s)) s := rfl

theorem exec_ijF (s : State) :
    exec .ijF s = accepting (fun s => returns .unit (genDirect .ij s)) s := rfl

theorem exec_uj (s : State) :
    exec .uj s = accepting (fun s => returns .unit (genUJ s)) s := rfl

theorem exec_trapE (s : State) :
    exec .trapE s = accepting (fun s => returns .unit (genTrap .exception s)) s := rfl

theorem exec_trapI (s : State) :
    exec .trapI s = accepting (fun s => returns .unit (genTrap .interrupt s)) s := rfl

theorem exec_trapR (s : State) :
    exec .trapR s = accepting (fun s => returns .unit (genTrap .trapReturn s)) s := rfl

theorem exec_hitC (s : State) :
    exec .hitC s = accepting (fun s => returns .unit (hitRow s)) s := rfl

theorem exec_hitF (s : State) :
    exec .hitF s = accepting (fun s => returns .unit (hitRow s)) s := rfl

theorem exec_missC (s : State) :
    exec .missC s = accepting (fun s => returns .unit (genMiss s)) s := rfl

theorem exec_missF (s : State) :
    exec .missF s = accepting (fun s => returns .unit (genMiss s)) s := rfl

theorem exec_val (s : State) :
    exec .val s = .refused .reservedPacket := rfl

theorem exec_res (s : State) :
    exec .res s = .refused .reservedPacket := rfl

theorem exec_construct (n : Nat) (s : State) :
    exec (.construct n) s = if n = 0 then .fault .constructZeroTable else .next (State.constructed s.params n s.inbox) := rfl

theorem exec_reset (s : State) :
    exec .reset s = accepting (fun s => returns .unit (resetBlock s)) s := rfl

theorem exec_setEnabled (b : Bool) (s : State) :
    exec (.setEnabled b) s = accepting (fun s => returns .unit (writeEnabled b s)) s := rfl

theorem exec_getEnabled (s : State) :
    exec .getEnabled s = accepting (fun s => returns (.bool s.enabled) s) s := rfl

theorem exec_getMode (s : State) :
    exec .getMode s = accepting (fun s => returns (.mode s.mode) s) s := rfl

theorem exec_setMode (m : BranchMode) (s : State) :
    exec (.setMode m) s = accepting (fun s => returns .unit (writeMode m s)) s := rfl

theorem exec_pushIngress (event : IngressEvent) (s : State) :
    exec (.pushIngress event) s = pushEvent event s := rfl

theorem exec_predictorReset (s : State) :
    exec .predictorReset s = accepting (fun s => returns .unit (setTab [] s)) s := rfl

theorem exec_predictorIndex (pc : U64) (s : State) :
    exec (.predictorIndex pc) s = returns (.index (predictorIndex s.n pc)) s := rfl

theorem exec_predictorPredict (pc : U64) (takenActual : Bool) (s : State) :
    exec (.predictorPredict pc takenActual) s =
      accepting (fun s => returns (.bool (predictHits pc takenActual s)) (predictUpdate pc takenActual s)) s := rfl

theorem exec_predictorPeek (pc : U64) (s : State) :
    exec (.predictorPeek pc) s = accepting (fun s => returns (.cell (cellAt pc s)) s) s := rfl

theorem exec_predictorIncrement (c : Cell) (s : State) :
    exec (.predictorIncrement c) s = returns (.cell (cellIncrement c)) s := rfl

theorem exec_predictorDecrement (c : Cell) (s : State) :
    exec (.predictorDecrement c) s = returns (.cell (cellDecrement c)) s := rfl

theorem exec_predictorIsTaken (c : Cell) (s : State) :
    exec (.predictorIsTaken c) s = returns (.bool (cellIsTaken c)) s := rfl

theorem exec_codecMostSignificantBitIndex (x : U64) (s : State) :
    exec (.codecMostSignificantBitIndex x) s = returns (.int (mostSignificantBitIndex x)) s := rfl

theorem exec_codecByteCount (msb : Int) (s : State) :
    exec (.codecByteCount msb) s = returns (.int (byteCount msb)) s := rfl

theorem exec_codecEncodeVarint (value : U64) (s : State) :
    exec (.codecEncodeVarint value) s = returns (.bytes (encodeVarint value)) s := rfl

theorem exec_codecIsCompressible (delta : U64) (s : State) :
    exec (.codecIsCompressible delta) s = returns (.bool (isCompressible delta)) s := rfl

theorem exec_codecEncodeCompressed (compressedHeader : CHCode) (smallValue : SmallValue) (s : State) :
    exec (.codecEncodeCompressed compressedHeader smallValue) s = returns (.bytes [encodeCompressed compressedHeader smallValue]) s := rfl

theorem exec_codecEncodeFullHeader (compressedHeader : CHCode) (fullHeader : FHCode) (trapType : TTCode) (s : State) :
    exec (.codecEncodeFullHeader compressedHeader fullHeader trapType) s =
      returns (.bytes [encodeFullHeader compressedHeader fullHeader trapType]) s := rfl

theorem exec_codecCompressedHeaderFor (fullHeader : FHCode) (s : State) :
    exec (.codecCompressedHeaderFor fullHeader) s = returns (.header (compressedHeaderFor s.params fullHeader)) s := rfl

theorem exec_codecEncodePacket (p : TracePacket) (shape : Shape) (s : State) :
    exec (.codecEncodePacket p shape) s = returns (.bytes (encodePacketRecord s.params p shape)) s := rfl

theorem exec_eventNONE (address timestamp : U64) (s : State) :
    exec (.eventNONE address timestamp) s = pushEvent ⟨address, timestamp, .none⟩ s := rfl

theorem exec_eventBT (address timestamp : U64) (s : State) :
    exec (.eventBT address timestamp) s = pushEvent ⟨address, timestamp, .branchTaken⟩ s := rfl

theorem exec_eventBNT (address timestamp : U64) (s : State) :
    exec (.eventBNT address timestamp) s = pushEvent ⟨address, timestamp, .branchNotTaken⟩ s := rfl

theorem exec_eventIJ (address timestamp : U64) (s : State) :
    exec (.eventIJ address timestamp) s = pushEvent ⟨address, timestamp, .jumpInferable⟩ s := rfl

theorem exec_eventUJ (address timestamp : U64) (s : State) :
    exec (.eventUJ address timestamp) s = pushEvent ⟨address, timestamp, .jumpUninferable⟩ s := rfl

theorem exec_eventEXC (address timestamp : U64) (s : State) :
    exec (.eventEXC address timestamp) s = pushEvent ⟨address, timestamp, .exception⟩ s := rfl

theorem exec_eventINT (address timestamp : U64) (s : State) :
    exec (.eventINT address timestamp) s = pushEvent ⟨address, timestamp, .interrupt⟩ s := rfl

theorem exec_eventRET (address timestamp : U64) (s : State) :
    exec (.eventRET address timestamp) s = pushEvent ⟨address, timestamp, .trapReturn⟩ s := rfl

end Sys2Proof.Machine
end

