-- ==== Sys2Proof/Laws/State.lean ====
section
/-! SUPPORT. What each named write of Machine/Ops.lean does to each field of State, so that no proof unfolds a record
update. -/

namespace Sys2Proof.Machine

variable (s : State)

/-! ## setRet -/

@[simp] theorem setRet_params (r : Ret) : (setRet r s).params = s.params := rfl
@[simp] theorem setRet_n (r : Ret) : (setRet r s).n = s.n := rfl
@[simp] theorem setRet_st (r : Ret) : (setRet r s).st = s.st := rfl
@[simp] theorem setRet_enabled (r : Ret) : (setRet r s).enabled = s.enabled := rfl
@[simp] theorem setRet_mode (r : Ret) : (setRet r s).mode = s.mode := rfl
@[simp] theorem setRet_stage0 (r : Ret) : (setRet r s).stage0 = s.stage0 := rfl
@[simp] theorem setRet_stage1 (r : Ret) : (setRet r s).stage1 = s.stage1 := rfl
@[simp] theorem setRet_prevTimestamp (r : Ret) : (setRet r s).prevTimestamp = s.prevTimestamp := rfl
@[simp] theorem setRet_hitCount (r : Ret) : (setRet r s).hitCount = s.hitCount := rfl
@[simp] theorem setRet_missFlag (r : Ret) : (setRet r s).missFlag = s.missFlag := rfl
@[simp] theorem setRet_tab (r : Ret) : (setRet r s).tab = s.tab := rfl
@[simp] theorem setRet_sink (r : Ret) : (setRet r s).sink = s.sink := rfl
@[simp] theorem setRet_fault (r : Ret) : (setRet r s).fault = s.fault := rfl
@[simp] theorem setRet_modeChanged (r : Ret) : (setRet r s).modeChanged = s.modeChanged := rfl
@[simp] theorem setRet_ret (r : Ret) : (setRet r s).ret = r := rfl
@[simp] theorem setRet_inbox (r : Ret) : (setRet r s).inbox = s.inbox := rfl

/-! ## sinkAppend -/

@[simp] theorem sinkAppend_params (bytes : List Byte) : (sinkAppend bytes s).params = s.params := rfl
@[simp] theorem sinkAppend_n (bytes : List Byte) : (sinkAppend bytes s).n = s.n := rfl
@[simp] theorem sinkAppend_st (bytes : List Byte) : (sinkAppend bytes s).st = s.st := rfl
@[simp] theorem sinkAppend_enabled (bytes : List Byte) : (sinkAppend bytes s).enabled = s.enabled := rfl
@[simp] theorem sinkAppend_mode (bytes : List Byte) : (sinkAppend bytes s).mode = s.mode := rfl
@[simp] theorem sinkAppend_stage0 (bytes : List Byte) : (sinkAppend bytes s).stage0 = s.stage0 := rfl
@[simp] theorem sinkAppend_stage1 (bytes : List Byte) : (sinkAppend bytes s).stage1 = s.stage1 := rfl
@[simp] theorem sinkAppend_prevTimestamp (bytes : List Byte) : (sinkAppend bytes s).prevTimestamp = s.prevTimestamp := rfl
@[simp] theorem sinkAppend_hitCount (bytes : List Byte) : (sinkAppend bytes s).hitCount = s.hitCount := rfl
@[simp] theorem sinkAppend_missFlag (bytes : List Byte) : (sinkAppend bytes s).missFlag = s.missFlag := rfl
@[simp] theorem sinkAppend_tab (bytes : List Byte) : (sinkAppend bytes s).tab = s.tab := rfl
@[simp] theorem sinkAppend_sink (bytes : List Byte) : (sinkAppend bytes s).sink = s.sink ++ bytes := rfl
@[simp] theorem sinkAppend_fault (bytes : List Byte) : (sinkAppend bytes s).fault = s.fault := rfl
@[simp] theorem sinkAppend_modeChanged (bytes : List Byte) : (sinkAppend bytes s).modeChanged = s.modeChanged := rfl
@[simp] theorem sinkAppend_ret (bytes : List Byte) : (sinkAppend bytes s).ret = s.ret := rfl
@[simp] theorem sinkAppend_inbox (bytes : List Byte) : (sinkAppend bytes s).inbox = s.inbox := rfl

/-! ## setPrevTimestamp -/

@[simp] theorem setPrevTimestamp_params (t : U64) : (setPrevTimestamp t s).params = s.params := rfl
@[simp] theorem setPrevTimestamp_n (t : U64) : (setPrevTimestamp t s).n = s.n := rfl
@[simp] theorem setPrevTimestamp_st (t : U64) : (setPrevTimestamp t s).st = s.st := rfl
@[simp] theorem setPrevTimestamp_enabled (t : U64) : (setPrevTimestamp t s).enabled = s.enabled := rfl
@[simp] theorem setPrevTimestamp_mode (t : U64) : (setPrevTimestamp t s).mode = s.mode := rfl
@[simp] theorem setPrevTimestamp_stage0 (t : U64) : (setPrevTimestamp t s).stage0 = s.stage0 := rfl
@[simp] theorem setPrevTimestamp_stage1 (t : U64) : (setPrevTimestamp t s).stage1 = s.stage1 := rfl
@[simp] theorem setPrevTimestamp_prevTimestamp (t : U64) : (setPrevTimestamp t s).prevTimestamp = t := rfl
@[simp] theorem setPrevTimestamp_hitCount (t : U64) : (setPrevTimestamp t s).hitCount = s.hitCount := rfl
@[simp] theorem setPrevTimestamp_missFlag (t : U64) : (setPrevTimestamp t s).missFlag = s.missFlag := rfl
@[simp] theorem setPrevTimestamp_tab (t : U64) : (setPrevTimestamp t s).tab = s.tab := rfl
@[simp] theorem setPrevTimestamp_sink (t : U64) : (setPrevTimestamp t s).sink = s.sink := rfl
@[simp] theorem setPrevTimestamp_fault (t : U64) : (setPrevTimestamp t s).fault = s.fault := rfl
@[simp] theorem setPrevTimestamp_modeChanged (t : U64) : (setPrevTimestamp t s).modeChanged = s.modeChanged := rfl
@[simp] theorem setPrevTimestamp_ret (t : U64) : (setPrevTimestamp t s).ret = s.ret := rfl
@[simp] theorem setPrevTimestamp_inbox (t : U64) : (setPrevTimestamp t s).inbox = s.inbox := rfl

/-! ## setHitCount -/

@[simp] theorem setHitCount_params (c : U64) : (setHitCount c s).params = s.params := rfl
@[simp] theorem setHitCount_n (c : U64) : (setHitCount c s).n = s.n := rfl
@[simp] theorem setHitCount_st (c : U64) : (setHitCount c s).st = s.st := rfl
@[simp] theorem setHitCount_enabled (c : U64) : (setHitCount c s).enabled = s.enabled := rfl
@[simp] theorem setHitCount_mode (c : U64) : (setHitCount c s).mode = s.mode := rfl
@[simp] theorem setHitCount_stage0 (c : U64) : (setHitCount c s).stage0 = s.stage0 := rfl
@[simp] theorem setHitCount_stage1 (c : U64) : (setHitCount c s).stage1 = s.stage1 := rfl
@[simp] theorem setHitCount_prevTimestamp (c : U64) : (setHitCount c s).prevTimestamp = s.prevTimestamp := rfl
@[simp] theorem setHitCount_hitCount (c : U64) : (setHitCount c s).hitCount = c := rfl
@[simp] theorem setHitCount_missFlag (c : U64) : (setHitCount c s).missFlag = s.missFlag := rfl
@[simp] theorem setHitCount_tab (c : U64) : (setHitCount c s).tab = s.tab := rfl
@[simp] theorem setHitCount_sink (c : U64) : (setHitCount c s).sink = s.sink := rfl
@[simp] theorem setHitCount_fault (c : U64) : (setHitCount c s).fault = s.fault := rfl
@[simp] theorem setHitCount_modeChanged (c : U64) : (setHitCount c s).modeChanged = s.modeChanged := rfl
@[simp] theorem setHitCount_ret (c : U64) : (setHitCount c s).ret = s.ret := rfl
@[simp] theorem setHitCount_inbox (c : U64) : (setHitCount c s).inbox = s.inbox := rfl

/-! ## setMissFlag -/

@[simp] theorem setMissFlag_params (b : Bool) : (setMissFlag b s).params = s.params := rfl
@[simp] theorem setMissFlag_n (b : Bool) : (setMissFlag b s).n = s.n := rfl
@[simp] theorem setMissFlag_st (b : Bool) : (setMissFlag b s).st = s.st := rfl
@[simp] theorem setMissFlag_enabled (b : Bool) : (setMissFlag b s).enabled = s.enabled := rfl
@[simp] theorem setMissFlag_mode (b : Bool) : (setMissFlag b s).mode = s.mode := rfl
@[simp] theorem setMissFlag_stage0 (b : Bool) : (setMissFlag b s).stage0 = s.stage0 := rfl
@[simp] theorem setMissFlag_stage1 (b : Bool) : (setMissFlag b s).stage1 = s.stage1 := rfl
@[simp] theorem setMissFlag_prevTimestamp (b : Bool) : (setMissFlag b s).prevTimestamp = s.prevTimestamp := rfl
@[simp] theorem setMissFlag_hitCount (b : Bool) : (setMissFlag b s).hitCount = s.hitCount := rfl
@[simp] theorem setMissFlag_missFlag (b : Bool) : (setMissFlag b s).missFlag = b := rfl
@[simp] theorem setMissFlag_tab (b : Bool) : (setMissFlag b s).tab = s.tab := rfl
@[simp] theorem setMissFlag_sink (b : Bool) : (setMissFlag b s).sink = s.sink := rfl
@[simp] theorem setMissFlag_fault (b : Bool) : (setMissFlag b s).fault = s.fault := rfl
@[simp] theorem setMissFlag_modeChanged (b : Bool) : (setMissFlag b s).modeChanged = s.modeChanged := rfl
@[simp] theorem setMissFlag_ret (b : Bool) : (setMissFlag b s).ret = s.ret := rfl
@[simp] theorem setMissFlag_inbox (b : Bool) : (setMissFlag b s).inbox = s.inbox := rfl

/-! ## setTab -/

@[simp] theorem setTab_params (t : Table) : (setTab t s).params = s.params := rfl
@[simp] theorem setTab_n (t : Table) : (setTab t s).n = s.n := rfl
@[simp] theorem setTab_st (t : Table) : (setTab t s).st = s.st := rfl
@[simp] theorem setTab_enabled (t : Table) : (setTab t s).enabled = s.enabled := rfl
@[simp] theorem setTab_mode (t : Table) : (setTab t s).mode = s.mode := rfl
@[simp] theorem setTab_stage0 (t : Table) : (setTab t s).stage0 = s.stage0 := rfl
@[simp] theorem setTab_stage1 (t : Table) : (setTab t s).stage1 = s.stage1 := rfl
@[simp] theorem setTab_prevTimestamp (t : Table) : (setTab t s).prevTimestamp = s.prevTimestamp := rfl
@[simp] theorem setTab_hitCount (t : Table) : (setTab t s).hitCount = s.hitCount := rfl
@[simp] theorem setTab_missFlag (t : Table) : (setTab t s).missFlag = s.missFlag := rfl
@[simp] theorem setTab_tab (t : Table) : (setTab t s).tab = t := rfl
@[simp] theorem setTab_sink (t : Table) : (setTab t s).sink = s.sink := rfl
@[simp] theorem setTab_fault (t : Table) : (setTab t s).fault = s.fault := rfl
@[simp] theorem setTab_modeChanged (t : Table) : (setTab t s).modeChanged = s.modeChanged := rfl
@[simp] theorem setTab_ret (t : Table) : (setTab t s).ret = s.ret := rfl
@[simp] theorem setTab_inbox (t : Table) : (setTab t s).inbox = s.inbox := rfl

/-! ## setSegment -/

@[simp] theorem setSegment_params (st : EncoderState) : (setSegment st s).params = s.params := rfl
@[simp] theorem setSegment_n (st : EncoderState) : (setSegment st s).n = s.n := rfl
@[simp] theorem setSegment_st (st : EncoderState) : (setSegment st s).st = st := rfl
@[simp] theorem setSegment_enabled (st : EncoderState) : (setSegment st s).enabled = s.enabled := rfl
@[simp] theorem setSegment_mode (st : EncoderState) : (setSegment st s).mode = s.mode := rfl
@[simp] theorem setSegment_stage0 (st : EncoderState) : (setSegment st s).stage0 = s.stage0 := rfl
@[simp] theorem setSegment_stage1 (st : EncoderState) : (setSegment st s).stage1 = s.stage1 := rfl
@[simp] theorem setSegment_prevTimestamp (st : EncoderState) : (setSegment st s).prevTimestamp = s.prevTimestamp := rfl
@[simp] theorem setSegment_hitCount (st : EncoderState) : (setSegment st s).hitCount = s.hitCount := rfl
@[simp] theorem setSegment_missFlag (st : EncoderState) : (setSegment st s).missFlag = s.missFlag := rfl
@[simp] theorem setSegment_tab (st : EncoderState) : (setSegment st s).tab = s.tab := rfl
@[simp] theorem setSegment_sink (st : EncoderState) : (setSegment st s).sink = s.sink := rfl
@[simp] theorem setSegment_fault (st : EncoderState) : (setSegment st s).fault = s.fault := rfl
@[simp] theorem setSegment_modeChanged (st : EncoderState) : (setSegment st s).modeChanged = false := rfl
@[simp] theorem setSegment_ret (st : EncoderState) : (setSegment st s).ret = s.ret := rfl
@[simp] theorem setSegment_inbox (st : EncoderState) : (setSegment st s).inbox = s.inbox := rfl

/-! ## writeEnabled -/

@[simp] theorem writeEnabled_params (b : Bool) : (writeEnabled b s).params = s.params := rfl
@[simp] theorem writeEnabled_n (b : Bool) : (writeEnabled b s).n = s.n := rfl
@[simp] theorem writeEnabled_st (b : Bool) : (writeEnabled b s).st = s.st := rfl
@[simp] theorem writeEnabled_enabled (b : Bool) : (writeEnabled b s).enabled = b := rfl
@[simp] theorem writeEnabled_mode (b : Bool) : (writeEnabled b s).mode = s.mode := rfl
@[simp] theorem writeEnabled_stage0 (b : Bool) : (writeEnabled b s).stage0 = s.stage0 := rfl
@[simp] theorem writeEnabled_stage1 (b : Bool) : (writeEnabled b s).stage1 = s.stage1 := rfl
@[simp] theorem writeEnabled_prevTimestamp (b : Bool) : (writeEnabled b s).prevTimestamp = s.prevTimestamp := rfl
@[simp] theorem writeEnabled_hitCount (b : Bool) : (writeEnabled b s).hitCount = s.hitCount := rfl
@[simp] theorem writeEnabled_missFlag (b : Bool) : (writeEnabled b s).missFlag = s.missFlag := rfl
@[simp] theorem writeEnabled_tab (b : Bool) : (writeEnabled b s).tab = s.tab := rfl
@[simp] theorem writeEnabled_sink (b : Bool) : (writeEnabled b s).sink = s.sink := rfl
@[simp] theorem writeEnabled_fault (b : Bool) : (writeEnabled b s).fault = s.fault := rfl
@[simp] theorem writeEnabled_modeChanged (b : Bool) : (writeEnabled b s).modeChanged = s.modeChanged := rfl
@[simp] theorem writeEnabled_ret (b : Bool) : (writeEnabled b s).ret = s.ret := rfl
@[simp] theorem writeEnabled_inbox (b : Bool) : (writeEnabled b s).inbox = s.inbox := rfl

/-! ## writeMode -/

@[simp] theorem writeMode_params (m : BranchMode) : (writeMode m s).params = s.params := rfl
@[simp] theorem writeMode_n (m : BranchMode) : (writeMode m s).n = s.n := rfl
@[simp] theorem writeMode_st (m : BranchMode) : (writeMode m s).st = s.st := rfl
@[simp] theorem writeMode_enabled (m : BranchMode) : (writeMode m s).enabled = s.enabled := rfl
@[simp] theorem writeMode_mode (m : BranchMode) : (writeMode m s).mode = m := rfl
@[simp] theorem writeMode_stage0 (m : BranchMode) : (writeMode m s).stage0 = s.stage0 := rfl
@[simp] theorem writeMode_stage1 (m : BranchMode) : (writeMode m s).stage1 = s.stage1 := rfl
@[simp] theorem writeMode_prevTimestamp (m : BranchMode) : (writeMode m s).prevTimestamp = s.prevTimestamp := rfl
@[simp] theorem writeMode_hitCount (m : BranchMode) : (writeMode m s).hitCount = s.hitCount := rfl
@[simp] theorem writeMode_missFlag (m : BranchMode) : (writeMode m s).missFlag = s.missFlag := rfl
@[simp] theorem writeMode_tab (m : BranchMode) : (writeMode m s).tab = s.tab := rfl
@[simp] theorem writeMode_sink (m : BranchMode) : (writeMode m s).sink = s.sink := rfl
@[simp] theorem writeMode_fault (m : BranchMode) : (writeMode m s).fault = s.fault := rfl
@[simp] theorem writeMode_modeChanged (m : BranchMode) : (writeMode m s).modeChanged = (s.modeChanged || (s.st == .data && s.mode != m)) := rfl
@[simp] theorem writeMode_ret (m : BranchMode) : (writeMode m s).ret = s.ret := rfl
@[simp] theorem writeMode_inbox (m : BranchMode) : (writeMode m s).inbox = s.inbox := rfl

/-! ## shiftIn -/

@[simp] theorem shiftIn_params (e : IngressEvent) : (shiftIn e s).params = s.params := rfl
@[simp] theorem shiftIn_n (e : IngressEvent) : (shiftIn e s).n = s.n := rfl
@[simp] theorem shiftIn_st (e : IngressEvent) : (shiftIn e s).st = s.st := rfl
@[simp] theorem shiftIn_enabled (e : IngressEvent) : (shiftIn e s).enabled = s.enabled := rfl
@[simp] theorem shiftIn_mode (e : IngressEvent) : (shiftIn e s).mode = s.mode := rfl
@[simp] theorem shiftIn_stage0 (e : IngressEvent) : (shiftIn e s).stage0 = e := rfl
@[simp] theorem shiftIn_stage1 (e : IngressEvent) : (shiftIn e s).stage1 = s.stage0 := rfl
@[simp] theorem shiftIn_prevTimestamp (e : IngressEvent) : (shiftIn e s).prevTimestamp = s.prevTimestamp := rfl
@[simp] theorem shiftIn_hitCount (e : IngressEvent) : (shiftIn e s).hitCount = s.hitCount := rfl
@[simp] theorem shiftIn_missFlag (e : IngressEvent) : (shiftIn e s).missFlag = s.missFlag := rfl
@[simp] theorem shiftIn_tab (e : IngressEvent) : (shiftIn e s).tab = s.tab := rfl
@[simp] theorem shiftIn_sink (e : IngressEvent) : (shiftIn e s).sink = s.sink := rfl
@[simp] theorem shiftIn_fault (e : IngressEvent) : (shiftIn e s).fault = s.fault := rfl
@[simp] theorem shiftIn_modeChanged (e : IngressEvent) : (shiftIn e s).modeChanged = s.modeChanged := rfl
@[simp] theorem shiftIn_ret (e : IngressEvent) : (shiftIn e s).ret = s.ret := rfl
@[simp] theorem shiftIn_inbox (e : IngressEvent) : (shiftIn e s).inbox = s.inbox := rfl

/-! ## resetBlock -/

@[simp] theorem resetBlock_params : (resetBlock s).params = s.params := rfl
@[simp] theorem resetBlock_n : (resetBlock s).n = s.n := rfl
@[simp] theorem resetBlock_st : (resetBlock s).st = .idle := rfl
@[simp] theorem resetBlock_enabled : (resetBlock s).enabled = false := rfl
@[simp] theorem resetBlock_mode : (resetBlock s).mode = s.mode := rfl
@[simp] theorem resetBlock_stage0 : (resetBlock s).stage0 = emptyEvent := rfl
@[simp] theorem resetBlock_stage1 : (resetBlock s).stage1 = emptyEvent := rfl
@[simp] theorem resetBlock_prevTimestamp : (resetBlock s).prevTimestamp = 0 := rfl
@[simp] theorem resetBlock_hitCount : (resetBlock s).hitCount = 0 := rfl
@[simp] theorem resetBlock_missFlag : (resetBlock s).missFlag = false := rfl
@[simp] theorem resetBlock_tab : (resetBlock s).tab = [] := rfl
@[simp] theorem resetBlock_sink : (resetBlock s).sink = s.sink := rfl
@[simp] theorem resetBlock_fault : (resetBlock s).fault = s.fault := rfl
@[simp] theorem resetBlock_modeChanged : (resetBlock s).modeChanged = false := rfl
@[simp] theorem resetBlock_ret : (resetBlock s).ret = s.ret := rfl
@[simp] theorem resetBlock_inbox : (resetBlock s).inbox = s.inbox := rfl

/-! ## raise -/

@[simp] theorem raise_params (f : BlockFault) : (raise f s).params = s.params := rfl
@[simp] theorem raise_n (f : BlockFault) : (raise f s).n = s.n := rfl
@[simp] theorem raise_st (f : BlockFault) : (raise f s).st = s.st := rfl
@[simp] theorem raise_enabled (f : BlockFault) : (raise f s).enabled = s.enabled := rfl
@[simp] theorem raise_mode (f : BlockFault) : (raise f s).mode = s.mode := rfl
@[simp] theorem raise_stage0 (f : BlockFault) : (raise f s).stage0 = s.stage0 := rfl
@[simp] theorem raise_stage1 (f : BlockFault) : (raise f s).stage1 = s.stage1 := rfl
@[simp] theorem raise_prevTimestamp (f : BlockFault) : (raise f s).prevTimestamp = s.prevTimestamp := rfl
@[simp] theorem raise_hitCount (f : BlockFault) : (raise f s).hitCount = s.hitCount := rfl
@[simp] theorem raise_missFlag (f : BlockFault) : (raise f s).missFlag = s.missFlag := rfl
@[simp] theorem raise_tab (f : BlockFault) : (raise f s).tab = s.tab := rfl
@[simp] theorem raise_sink (f : BlockFault) : (raise f s).sink = s.sink := rfl
@[simp] theorem raise_fault (f : BlockFault) : (raise f s).fault = some f := rfl
@[simp] theorem raise_modeChanged (f : BlockFault) : (raise f s).modeChanged = s.modeChanged := rfl
@[simp] theorem raise_ret (f : BlockFault) : (raise f s).ret = s.ret := rfl
@[simp] theorem raise_inbox (f : BlockFault) : (raise f s).inbox = s.inbox := rfl

end Sys2Proof.Machine
end

