-- ==== Sys2Proof/Laws/Ops.lean ====
section
/-! SUPPORT. What each shared operation can do, said once: the generators as record updates, the checks and the three
arms of the generate sub-stage as cases, a call of `pushIngress` as an inversion lemma. -/

namespace Sys2Proof.Machine

/-! ## Outcomes -/

theorem returns_eq (r : Ret) (s : State) : returns r s = .next { s with ret := r } := rfl

theorem returns_next {r : Ret} {s t : State} (h : returns r s = .next t) : t = setRet r s := by
  cases h; rfl

theorem accepting_none {act : State → Result} {s : State} (h : s.fault = none) : accepting act s = act s := by
  simp [accepting, h]

theorem accepting_some {act : State → Result} {s : State} {f : BlockFault} (h : s.fault = some f) :
    accepting act s = .refused .faultedBlock := by
  simp [accepting, h]

theorem accepting_next {act : State → Result} {s t : State} (h : accepting act s = .next t) :
    s.fault = none ∧ act s = .next t := by
  cases hf : s.fault with
  | none => exact ⟨rfl, accepting_none (act := act) hf ▸ h⟩
  | some f => rw [accepting_some hf] at h; cases h

/-! ## Generators -/

theorem genSync_eq (s : State) :
    genSync s = { s with
      sink := s.sink ++ encodePacket s.params (.sync (syncAddress s) s.stage0.timestamp)
      prevTimestamp := s.stage0.timestamp } := rfl

/-- The packet of `GenDirect`. -/
def directPacket : DirectKind → U64 → Packet
  | .tb => .tb
  | .nt => .nt
  | .ij => .ij
  | .miss => .miss

theorem genDirect_eq (k : DirectKind) (s : State) :
    genDirect k s = { s with
      sink := s.sink ++ encodePacket s.params (directPacket k (deltaTimestamp s))
      prevTimestamp := s.stage1.timestamp } := by
  cases k <;> rfl

theorem genUJ_eq (s : State) :
    genUJ s = { s with
      sink := s.sink ++ encodePacket s.params (.uj (xorAddress s) (deltaTimestamp s))
      prevTimestamp := s.stage1.timestamp } := rfl

theorem genTrap_eq (t : TrapReason) (s : State) :
    genTrap t s = { s with
      sink := s.sink ++ encodePacket s.params (.trap t (xorAddress s) (deltaTimestamp s))
      prevTimestamp := s.stage1.timestamp } := rfl

theorem emitHit_eq (s : State) :
    emitHit s = { s with sink := s.sink ++ encodePacket s.params (.hit s.hitCount), hitCount := 0 } := rfl

/-- A check either runs the rest, or raises under `ASSERT_MODE = fault`. -/
theorem asserting_cases (f : BlockFault) (holds : Bool) (act : State → State) (s : State) :
    ((holds = true ∨ s.params.assertMode = .continue) ∧ asserting f holds act s = act s) ∨
    (holds = false ∧ s.params.assertMode = .fault ∧ asserting f holds act s = raise f s) := by
  unfold asserting
  cases holds <;> cases s.params.assertMode <;> simp

theorem asserting_pass {f : BlockFault} {holds : Bool} {act : State → State} {s : State}
    (h : holds = true ∨ s.params.assertMode = .continue) : asserting f holds act s = act s := by
  rcases asserting_cases f holds act s with ⟨-, h'⟩ | ⟨h1, h2, -⟩
  · exact h'
  · rcases h with h | h
    · rw [h] at h1; cases h1
    · rw [h] at h2; cases h2

theorem asserting_raise {f : BlockFault} {holds : Bool} {act : State → State} {s : State}
    (h : holds = false) (ha : s.params.assertMode = .fault) : asserting f holds act s = raise f s := by
  simp [asserting, h, ha]

/-! ## The predict sub-stage -/

/-- The predict sub-stage writes at most one cell and `hitCount` (44_prediction_mode.md R211). -/
theorem predictStage_eq (s : State) :
    predictStage s = { s with tab := (predictStage s).tab, hitCount := (predictStage s).hitCount } := by
  unfold predictStage predictUpdate
  split
  · dsimp only
    split <;> rfl
  · rfl

@[simp] theorem predictStage_params (s : State) : (predictStage s).params = s.params := by rw [predictStage_eq]
@[simp] theorem predictStage_n (s : State) : (predictStage s).n = s.n := by rw [predictStage_eq]
@[simp] theorem predictStage_st (s : State) : (predictStage s).st = s.st := by rw [predictStage_eq]
@[simp] theorem predictStage_enabled (s : State) : (predictStage s).enabled = s.enabled := by rw [predictStage_eq]
@[simp] theorem predictStage_mode (s : State) : (predictStage s).mode = s.mode := by rw [predictStage_eq]
@[simp] theorem predictStage_stage0 (s : State) : (predictStage s).stage0 = s.stage0 := by rw [predictStage_eq]
@[simp] theorem predictStage_stage1 (s : State) : (predictStage s).stage1 = s.stage1 := by rw [predictStage_eq]
@[simp] theorem predictStage_prevTimestamp (s : State) : (predictStage s).prevTimestamp = s.prevTimestamp := by
  rw [predictStage_eq]
@[simp] theorem predictStage_missFlag (s : State) : (predictStage s).missFlag = s.missFlag := by rw [predictStage_eq]
@[simp] theorem predictStage_sink (s : State) : (predictStage s).sink = s.sink := by rw [predictStage_eq]
@[simp] theorem predictStage_fault (s : State) : (predictStage s).fault = s.fault := by rw [predictStage_eq]
@[simp] theorem predictStage_modeChanged (s : State) : (predictStage s).modeChanged = s.modeChanged := by
  rw [predictStage_eq]
@[simp] theorem predictStage_ret (s : State) : (predictStage s).ret = s.ret := by rw [predictStage_eq]
@[simp] theorem predictStage_inbox (s : State) : (predictStage s).inbox = s.inbox := by rw [predictStage_eq]

/-! ## The generate sub-stage -/

/-- The jump and trap table runs one generator, or nothing (44_prediction_mode.md R216). -/
theorem jumpTrapDispatch_cases (s : State) :
    jumpTrapDispatch s = s ∨ jumpTrapDispatch s = genDirect .ij s ∨ jumpTrapDispatch s = genUJ s ∨
    ∃ t, jumpTrapDispatch s = genTrap t s := by
  unfold jumpTrapDispatch
  split
  case h_5 => exact .inr (.inr (.inl rfl))
  case h_4 => exact .inr (.inl rfl)
  case h_6 => exact .inr (.inr (.inr ⟨_, rfl⟩))
  case h_7 => exact .inr (.inr (.inr ⟨_, rfl⟩))
  case h_8 => exact .inr (.inr (.inr ⟨_, rfl⟩))
  all_goals exact .inl rfl

/-- The Target Mode table runs one generator, or nothing (43_target_mode.md R191). -/
theorem targetDataStep_cases (s : State) :
    targetDataStep s = s ∨ (∃ k, targetDataStep s = genDirect k s ∧ k ≠ .miss) ∨ targetDataStep s = genUJ s ∨
    ∃ t, targetDataStep s = genTrap t s := by
  unfold targetDataStep
  split
  case h_1 => exact .inl rfl
  case h_5 => exact .inr (.inr (.inl rfl))
  case h_6 => exact .inr (.inr (.inr ⟨_, rfl⟩))
  case h_7 => exact .inr (.inr (.inr ⟨_, rfl⟩))
  case h_8 => exact .inr (.inr (.inr ⟨_, rfl⟩))
  all_goals exact .inr (.inl ⟨_, rfl, by decide⟩)

/-- The generate sub-stage: a Hit packet, a Miss packet, a fault of one of the two checks, or the jump and trap table
(44_prediction_mode.md R212). -/
theorem generateStage_cases (flush : Bool) (s : State) :
    generateStage flush s = emitHit s ∨ generateStage flush s = genDirect .miss s ∨
    (∃ f, generateStage flush s = raise f s) ∨ generateStage flush s = jumpTrapDispatch s := by
  unfold generateStage genHit genMiss
  split
  · rcases asserting_cases .hitInvariant (hitInvariant s) emitHit s with ⟨-, h⟩ | ⟨-, -, h⟩
    · exact .inl h
    · exact .inr (.inr (.inl ⟨_, h⟩))
  · split
    · rcases asserting_cases .missInvariant (missInvariant s) (genDirect .miss) s with ⟨-, h⟩ | ⟨-, -, h⟩
      · exact .inr (.inl h)
      · exact .inr (.inr (.inl ⟨_, h⟩))
    · exact .inr (.inr (.inr rfl))

theorem commitMissFlag_none {b : Bool} {s : State} (h : s.fault = none) : commitMissFlag b s = setMissFlag b s := by
  simp [commitMissFlag, h]

theorem commitMissFlag_some {b : Bool} {s : State} {f : BlockFault} (h : s.fault = some f) :
    commitMissFlag b s = s := by
  simp [commitMissFlag, h]

/-! ## A call -/

/-- A data step that answers a state ran the table of one of the two modes. -/
theorem dataStep_next {s t : State} (h : dataStep s = .next t) :
    s.modeChanged = false ∧
    ((s.mode = .target ∧ t = setRet .unit (targetDataStep s)) ∨
     (s.mode = .prediction ∧ t = setRet .unit (predictionDataStep s))) := by
  unfold dataStep at h
  cases hc : s.modeChanged with
  | true => simp [hc] at h
  | false =>
    refine ⟨rfl, ?_⟩
    cases hm : s.mode <;> simp [hc, hm] at h
    · exact .inl ⟨rfl, returns_next h⟩
    · exact .inr ⟨rfl, returns_next h⟩

theorem segmentStep_idle_disabled {s : State} (h : s.st = .idle) (he : s.enabled = false) :
    segmentStep s = returns .unit s := by
  simp only [segmentStep, h, he]

theorem segmentStep_idle_enabled {s : State} (h : s.st = .idle) (he : s.enabled = true) :
    segmentStep s = returns .unit (setSegment .data (genSync s)) := by
  simp only [segmentStep, h, he]

theorem segmentStep_data_enabled {s : State} (h : s.st = .data) (he : s.enabled = true) :
    segmentStep s = dataStep s := by
  simp only [segmentStep, h, he]

theorem segmentStep_data_disabled {s : State} (h : s.st = .data) (he : s.enabled = false) :
    segmentStep s = returns .unit (setSegment .idle (genSync s)) := by
  simp only [segmentStep, h, he]

theorem dataStep_target {s : State} (hc : s.modeChanged = false) (hm : s.mode = .target) :
    dataStep s = returns .unit (targetDataStep s) := by
  simp [dataStep, hc, hm]

theorem dataStep_prediction {s : State} (hc : s.modeChanged = false) (hm : s.mode = .prediction) :
    dataStep s = returns .unit (predictionDataStep s) := by
  simp [dataStep, hc, hm]

/-- The state machine: exactly one row applies (42_encoder_control.md R169). -/
theorem segmentStep_next {s t : State} (h : segmentStep s = .next t) :
    (s.st = .idle ∧ s.enabled = false ∧ t = setRet .unit s) ∨
    (s.st = .idle ∧ s.enabled = true ∧ t = setRet .unit (setSegment .data (genSync s))) ∨
    (s.st = .data ∧ s.enabled = false ∧ t = setRet .unit (setSegment .idle (genSync s))) ∨
    (s.st = .data ∧ s.enabled = true ∧ dataStep s = .next t) := by
  unfold segmentStep at h
  cases hs : s.st <;> cases he : s.enabled <;> simp [hs, he] at h
  · exact .inl ⟨rfl, rfl, returns_next h⟩
  · exact .inr (.inl ⟨rfl, rfl, returns_next h⟩)
  · exact .inr (.inr (.inl ⟨rfl, rfl, returns_next h⟩))
  · exact .inr (.inr (.inr ⟨rfl, rfl, h⟩))

/-- A call that answers a state: the block was not faulted, and one row of the state machine ran on the shifted
pipeline. -/
theorem pushEvent_next {e : IngressEvent} {s t : State} (h : pushEvent e s = .next t) :
    s.fault = none ∧
    ((s.st = .idle ∧ s.enabled = false ∧ t = setRet .unit (shiftIn e s)) ∨
     (s.st = .idle ∧ s.enabled = true ∧ t = setRet .unit (setSegment .data (genSync (shiftIn e s)))) ∨
     (s.st = .data ∧ s.enabled = false ∧ t = setRet .unit (setSegment .idle (genSync (shiftIn e s)))) ∨
     (s.st = .data ∧ s.enabled = true ∧ s.modeChanged = false ∧ s.mode = .target ∧
       t = setRet .unit (targetDataStep (shiftIn e s))) ∨
     (s.st = .data ∧ s.enabled = true ∧ s.modeChanged = false ∧ s.mode = .prediction ∧
       t = setRet .unit (predictionDataStep (shiftIn e s)))) := by
  obtain ⟨hf, h⟩ := accepting_next h
  refine ⟨hf, ?_⟩
  rcases segmentStep_next h with h | h | h | ⟨h1, h2, h3⟩
  · exact .inl h
  · exact .inr (.inl h)
  · exact .inr (.inr (.inl h))
  · obtain ⟨hc, ⟨hm, ht⟩ | ⟨hm, ht⟩⟩ := dataStep_next h3
    · exact .inr (.inr (.inr (.inl ⟨h1, h2, hc, hm, ht⟩)))
    · exact .inr (.inr (.inr (.inr ⟨h1, h2, hc, hm, ht⟩)))

/-! ## The register view -/

theorem teCtrlStore_clear {v : U64} (s : State) (h : v.getLsbD 3 = false) :
    teCtrlStore v s = writeMode (modeOfCode (v.extractLsb' 1 2)) (writeEnabled (v.getLsbD 0) s) := by
  simp only [teCtrlStore, h, Bool.false_eq_true, if_false]

theorem teCtrlStore_reset {v : U64} (s : State) (h : v.getLsbD 3 = true) (h0 : v.extractLsb' 0 3 = 0#3) :
    teCtrlStore v s = resetBlock s := by
  simp only [teCtrlStore, h, h0, if_true]

theorem teCtrlStore_strobe {v : U64} (s : State) (h : v.getLsbD 3 = true) (h0 : v.extractLsb' 0 3 ≠ 0#3) :
    teCtrlStore v s =
      { resetBlock s with
        enabled := (Config.teCtrlStrobeWrite (v.extractLsb' 0 3) s.enabled s.mode).1
        mode := (Config.teCtrlStrobeWrite (v.extractLsb' 0 3) s.enabled s.mode).2 } := by
  simp only [teCtrlStore, h, h0, if_true, if_false]
  rfl

end Sys2Proof.Machine
end

