-- ==== Sys2Proof/Laws/Effects.lean ====
section
/-! SUPPORT. What an instruction can do, said once: an inversion lemma for exec and one for the Prediction Mode data step,
from which every whole-machine invariant follows by a short case analysis. -/

namespace Sys2Proof.Machine

/-- What one generator of a packet with a timestamp makes of a state (42_encoder_control.md R171; 43_target_mode.md R193,
R195, R196). -/
inductive Generated (s u : State) : Prop
  | sync (h : u = genSync s)
  | direct (k : DirectKind) (h : u = genDirect k s)
  | uj (h : u = genUJ s)
  | trap (r : TrapReason) (h : u = genTrap r s)

/-- What a generator leaves alone. -/
theorem Generated.frame {s u : State} (h : Generated s u) :
    u = { s with sink := u.sink, prevTimestamp := u.prevTimestamp } := by
  rcases h with h | ⟨k, h⟩ | h | ⟨r, h⟩ <;> subst h <;> rfl

theorem targetDataStep_generated (s : State) : targetDataStep s = s ∨ Generated s (targetDataStep s) := by
  rcases targetDataStep_cases s with h | ⟨k, h, -⟩ | h | ⟨r, h⟩
  · exact .inl h
  · exact .inr (.direct k h)
  · exact .inr (.uj h)
  · exact .inr (.trap r h)

theorem jumpTrapDispatch_generated (s : State) : jumpTrapDispatch s = s ∨ Generated s (jumpTrapDispatch s) := by
  rcases jumpTrapDispatch_cases s with h | h | h | ⟨r, h⟩
  · exact .inl h
  · exact .inr (.direct _ h)
  · exact .inr (.uj h)
  · exact .inr (.trap r h)

/-- What an instruction that answers `t` in `s` did. -/
inductive Effect (i : Instr) (s t : State) : Prop
  /-- a construction -/
  | construct (n : Nat) (hi : i = .construct n) (hn : n ≠ 0) (ht : t = State.constructed s.params n s.inbox)
  /-- a result, and no effect: getters, `peek`, the pure functions, a Hit row with no hits -/
  | result (r : Ret) (ht : t = setRet r s)
  | reset (hf : s.fault = none) (hi : i = .reset) (ht : t = setRet .unit (resetBlock s))
  | setEnabled (b : Bool) (hf : s.fault = none) (hi : i = .setEnabled b) (ht : t = setRet .unit (writeEnabled b s))
  | setMode (m : BranchMode) (hf : s.fault = none) (hi : i = .setMode m) (ht : t = setRet .unit (writeMode m s))
  | predictorReset (hf : s.fault = none) (hi : i = .predictorReset) (ht : t = setRet .unit (setTab [] s))
  | predict (pc : U64) (b : Bool) (hf : s.fault = none) (hi : i = .predictorPredict pc b)
      (ht : t = setRet (.bool (predictHits pc b s)) (predictUpdate pc b s))
  /-- a packet row other than Hit -/
  | packet (u : State) (hf : s.fault = none) (hi : i ∈ timestampRows) (hg : Generated s u) (ht : t = setRet .unit u)
  /-- a Hit row with hits -/
  | hit (hf : s.fault = none) (hi : i ∈ hitRows) (hc : s.hitCount ≠ 0) (ht : t = setRet .unit (emitHit s))
  /-- a Hit or Miss row whose invariant fails -/
  | raised (f : BlockFault) (hf : s.fault = none) (hi : i ∈ assertingRows) (ht : t = setRet .unit (raise f s))
  /-- a call of `pushIngress` -/
  | push (e : IngressEvent) (hf : s.fault = none) (hi : pushedEvent i = some e) (h : pushEvent e s = .next t)

/-- A generator run by itself. -/
theorem runGenerator_next {gen : State → State} {s t : State}
    (h : accepting (fun s => returns .unit (gen s)) s = .next t) : s.fault = none ∧ t = setRet .unit (gen s) :=
  ⟨(accepting_next h).1, returns_next (accepting_next h).2⟩

theorem effect_of_packet {i : Instr} {gen : State → State} {s t : State} (hi : i ∈ timestampRows)
    (hg : ∀ s, Generated s (gen s)) (h : accepting (fun s => returns .unit (gen s)) s = .next t) : Effect i s t :=
  .packet _ (runGenerator_next h).1 hi (hg s) (runGenerator_next h).2

theorem effect_of_miss {i : Instr} (hi : i ∈ timestampRows) (ha : i ∈ assertingRows) {s t : State}
    (h : accepting (fun s => returns .unit (genMiss s)) s = .next t) : Effect i s t := by
  obtain ⟨hf, rfl⟩ := runGenerator_next h
  rcases asserting_cases .missInvariant (missInvariant s) (genDirect .miss) s with ⟨-, h⟩ | ⟨-, -, h⟩
  · exact .packet _ hf hi (.direct _ h) rfl
  · exact .raised _ hf ha (congrArg _ h)

theorem effect_of_hit {i : Instr} (hi : i ∈ hitRows) (ha : i ∈ assertingRows) {s t : State}
    (h : accepting (fun s => returns .unit (hitRow s)) s = .next t) : Effect i s t := by
  obtain ⟨hf, rfl⟩ := runGenerator_next h
  unfold hitRow
  split
  · exact .result _ rfl
  · rcases asserting_cases .hitInvariant (hitInvariant s) emitHit s with ⟨-, h⟩ | ⟨-, -, h⟩
    · exact .hit hf hi ‹_› (congrArg _ h)
    · exact .raised _ hf ha (congrArg _ h)

theorem effect_of_result {i : Instr} {r : Ret} {s t : State} (h : returns r s = .next t) : Effect i s t :=
  .result _ (returns_next h)

theorem effect_of_read {i : Instr} {r : State → Ret} {s t : State}
    (h : accepting (fun s => returns (r s) s) s = .next t) : Effect i s t :=
  effect_of_result (accepting_next h).2

theorem effect_of_push {i : Instr} {e : IngressEvent} {s t : State} (hi : pushedEvent i = some e)
    (h : pushEvent e s = .next t) : Effect i s t :=
  .push e (accepting_next h).1 hi h

/-- Everything an instruction can do when it answers a state. -/
theorem exec_next {i : Instr} {s t : State} (h : exec i s = .next t) : Effect i s t := by
  cases i with
  | sync => rw [exec_sync] at h; exact effect_of_packet (by decide) (fun _ => .sync rfl) h
  | tbC => rw [exec_tbC] at h; exact effect_of_packet (by decide) (fun _ => .direct _ rfl) h
  | tbF => rw [exec_tbF] at h; exact effect_of_packet (by decide) (fun _ => .direct _ rfl) h
  | ntC => rw [exec_ntC] at h; exact effect_of_packet (by decide) (fun _ => .direct _ rfl) h
  | ntF => rw [exec_ntF] at h; exact effect_of_packet (by decide) (fun _ => .direct _ rfl) h
  | ijC => rw [exec_ijC] at h; exact effect_of_packet (by decide) (fun _ => .direct _ rfl) h
  | ijF => rw [exec_ijF] at h; exact effect_of_packet (by decide) (fun _ => .direct _ rfl) h
  | uj => rw [exec_uj] at h; exact effect_of_packet (by decide) (fun _ => .uj rfl) h
  | trapE => rw [exec_trapE] at h; exact effect_of_packet (by decide) (fun _ => .trap _ rfl) h
  | trapI => rw [exec_trapI] at h; exact effect_of_packet (by decide) (fun _ => .trap _ rfl) h
  | trapR => rw [exec_trapR] at h; exact effect_of_packet (by decide) (fun _ => .trap _ rfl) h
  | hitC => rw [exec_hitC] at h; exact effect_of_hit (by decide) (by decide) h
  | hitF => rw [exec_hitF] at h; exact effect_of_hit (by decide) (by decide) h
  | missC => rw [exec_missC] at h; exact effect_of_miss (by decide) (by decide) h
  | missF => rw [exec_missF] at h; exact effect_of_miss (by decide) (by decide) h
  | val => cases h
  | res => cases h
  | construct n =>
    rw [exec_construct] at h
    split at h
    · cases h
    · cases h; exact .construct n rfl ‹_› rfl
  | reset => rw [exec_reset] at h; exact .reset (accepting_next h).1 rfl (returns_next (accepting_next h).2)
  | setEnabled b => rw [exec_setEnabled] at h; exact .setEnabled b (accepting_next h).1 rfl (returns_next (accepting_next h).2)
  | getEnabled => rw [exec_getEnabled] at h; exact effect_of_read h
  | getMode => rw [exec_getMode] at h; exact effect_of_read h
  | setMode m => rw [exec_setMode] at h; exact .setMode m (accepting_next h).1 rfl (returns_next (accepting_next h).2)
  | pushIngress _ => rw [exec_pushIngress] at h; exact effect_of_push rfl h
  | predictorReset => rw [exec_predictorReset] at h; exact .predictorReset (accepting_next h).1 rfl (returns_next (accepting_next h).2)
  | predictorIndex _ => rw [exec_predictorIndex] at h; exact effect_of_result h
  | predictorPredict pc b => rw [exec_predictorPredict] at h; exact .predict pc b (accepting_next h).1 rfl (returns_next (accepting_next h).2)
  | predictorPeek _ => rw [exec_predictorPeek] at h; exact effect_of_read h
  | predictorIncrement _ => rw [exec_predictorIncrement] at h; exact effect_of_result h
  | predictorDecrement _ => rw [exec_predictorDecrement] at h; exact effect_of_result h
  | predictorIsTaken _ => rw [exec_predictorIsTaken] at h; exact effect_of_result h
  | codecMostSignificantBitIndex _ => rw [exec_codecMostSignificantBitIndex] at h; exact effect_of_result h
  | codecByteCount _ => rw [exec_codecByteCount] at h; exact effect_of_result h
  | codecEncodeVarint _ => rw [exec_codecEncodeVarint] at h; exact effect_of_result h
  | codecIsCompressible _ => rw [exec_codecIsCompressible] at h; exact effect_of_result h
  | codecEncodeCompressed _ _ => rw [exec_codecEncodeCompressed] at h; exact effect_of_result h
  | codecEncodeFullHeader _ _ _ => rw [exec_codecEncodeFullHeader] at h; exact effect_of_result h
  | codecCompressedHeaderFor _ => rw [exec_codecCompressedHeaderFor] at h; exact effect_of_result h
  | codecEncodePacket _ _ => rw [exec_codecEncodePacket] at h; exact effect_of_result h
  | eventNONE _ _ => rw [exec_eventNONE] at h; exact effect_of_push rfl h
  | eventBT _ _ => rw [exec_eventBT] at h; exact effect_of_push rfl h
  | eventBNT _ _ => rw [exec_eventBNT] at h; exact effect_of_push rfl h
  | eventIJ _ _ => rw [exec_eventIJ] at h; exact effect_of_push rfl h
  | eventUJ _ _ => rw [exec_eventUJ] at h; exact effect_of_push rfl h
  | eventEXC _ _ => rw [exec_eventEXC] at h; exact effect_of_push rfl h
  | eventINT _ _ => rw [exec_eventINT] at h; exact effect_of_push rfl h
  | eventRET _ _ => rw [exec_eventRET] at h; exact effect_of_push rfl h

/-- A data step of Prediction Mode on a block without a fault: one of the three arms and the commit, or the fault of a
failed check (44_prediction_mode.md R212, R218; 60_exceptions.md R247). -/
theorem predictionDataStep_cases {s : State} (hf : s.fault = none) :
    predictionDataStep s = setMissFlag (pendingMiss s) (emitHit (predictStage s)) ∨
    predictionDataStep s = setMissFlag (pendingMiss s) (genDirect .miss (predictStage s)) ∨
    predictionDataStep s = setMissFlag (pendingMiss s) (jumpTrapDispatch (predictStage s)) ∨
    ∃ f, predictionDataStep s = raise f (predictStage s) := by
  have hp : (predictStage s).fault = none := by simp [hf]
  unfold predictionDataStep
  rcases generateStage_cases (forceFlush s) (predictStage s) with h | h | ⟨f, h⟩ | h <;> rw [h]
  · exact .inl (commitMissFlag_none hp)
  · exact .inr (.inl (commitMissFlag_none hp))
  · exact .inr (.inr (.inr ⟨f, commitMissFlag_some rfl⟩))
  · refine .inr (.inr (.inl (commitMissFlag_none ?_)))
    rcases jumpTrapDispatch_cases (predictStage s) with h | h | h | ⟨r, h⟩ <;> rw [h] <;> exact hp

end Sys2Proof.Machine
end

