-- ==== Sys2Proof/Laws/PerInstr.lean ====
section
/-! SUPPORT. One fact about each instruction as syntax: the length of its word. A packet row has a word of one byte, an
event row a word of 17, every other row none (log 3, log 5). -/

namespace Sys2Proof.Laws.WordLength

/-- The word of an instruction, if it has one, is a packet's first byte or a whole event. -/
def Statement (i : Instr) : Prop :=
  ∀ (p : Params) (w : List Byte), encode p i = some w →
    (w.length = 1 ∧ ¬ i.readIn .ingress) ∨ (w.length = 17 ∧ i.readIn .ingress)

/-- A packet row's word is one byte. -/
theorem of_byte {i : Instr} {f : Params → Byte} (h : ∀ p, encode p i = some [f p]) (hi : ¬ i.readIn .ingress) :
    Statement i := by
  intro p w hw
  rw [h p] at hw
  cases hw
  exact .inl ⟨rfl, hi⟩

/-- An event row's word is the kind code and two words of eight bytes. -/
theorem of_event {i : Instr} {k : EventKind} {a t : U64} (h : ∀ p, encode p i = some (encodeEvent k a t))
    (hi : i.readIn .ingress) : Statement i := by
  intro p w hw
  rw [h p] at hw
  cases hw
  exact .inr ⟨rfl, hi⟩

/-- A row with no word. -/
theorem of_none {i : Instr} (h : ∀ p, encode p i = none) : Statement i := by
  intro p w hw
  rw [h p] at hw
  cases hw

theorem sync : Statement (.sync) := of_byte (fun _ => rfl) (fun h => by obtain ⟨m, h⟩ := h; cases h)

theorem tbC : Statement (.tbC) := of_byte (fun _ => rfl) nofun

theorem tbF : Statement (.tbF) := of_byte (fun _ => rfl) nofun

theorem ntC : Statement (.ntC) := of_byte (fun _ => rfl) nofun

theorem ntF : Statement (.ntF) := of_byte (fun _ => rfl) nofun

theorem ijC : Statement (.ijC) := of_byte (fun _ => rfl) (fun h => by rcases h with h | h <;> cases h)

theorem ijF : Statement (.ijF) := of_byte (fun _ => rfl) (fun h => by rcases h with h | h <;> cases h)

theorem uj : Statement (.uj) := of_byte (fun _ => rfl) (fun h => by rcases h with h | h <;> cases h)

theorem trapE : Statement (.trapE) := of_byte (fun _ => rfl) (fun h => by rcases h with h | h <;> cases h)

theorem trapI : Statement (.trapI) := of_byte (fun _ => rfl) (fun h => by rcases h with h | h <;> cases h)

theorem trapR : Statement (.trapR) := of_byte (fun _ => rfl) (fun h => by rcases h with h | h <;> cases h)

theorem hitC : Statement (.hitC) := of_byte (fun _ => rfl) nofun

theorem hitF : Statement (.hitF) := of_byte (fun _ => rfl) nofun

theorem missC : Statement (.missC) := of_byte (fun _ => rfl) nofun

theorem missF : Statement (.missF) := of_byte (fun _ => rfl) nofun

theorem val : Statement (.val) := of_byte (fun _ => rfl) (fun h => by obtain ⟨m, h⟩ := h; cases h)

theorem res : Statement (.res) := of_byte (fun _ => rfl) (fun h => by obtain ⟨m, h⟩ := h; cases h)

theorem construct (n : Nat) : Statement (.construct n) := of_none fun _ => rfl

theorem reset : Statement (.reset) := of_none fun _ => rfl

theorem setEnabled (b : Bool) : Statement (.setEnabled b) := of_none fun _ => rfl

theorem getEnabled : Statement (.getEnabled) := of_none fun _ => rfl

theorem getMode : Statement (.getMode) := of_none fun _ => rfl

theorem setMode (m : BranchMode) : Statement (.setMode m) := of_none fun _ => rfl

theorem pushIngress (event : IngressEvent) : Statement (.pushIngress event) := of_none fun _ => rfl

theorem predictorReset : Statement (.predictorReset) := of_none fun _ => rfl

theorem predictorIndex (pc : U64) : Statement (.predictorIndex pc) := of_none fun _ => rfl

theorem predictorPredict (pc : U64) (takenActual : Bool) : Statement (.predictorPredict pc takenActual) := of_none fun _ => rfl

theorem predictorPeek (pc : U64) : Statement (.predictorPeek pc) := of_none fun _ => rfl

theorem predictorIncrement (s : Cell) : Statement (.predictorIncrement s) := of_none fun _ => rfl

theorem predictorDecrement (s : Cell) : Statement (.predictorDecrement s) := of_none fun _ => rfl

theorem predictorIsTaken (s : Cell) : Statement (.predictorIsTaken s) := of_none fun _ => rfl

theorem codecMostSignificantBitIndex (x : U64) : Statement (.codecMostSignificantBitIndex x) := of_none fun _ => rfl

theorem codecByteCount (msb : Int) : Statement (.codecByteCount msb) := of_none fun _ => rfl

theorem codecEncodeVarint (value : U64) : Statement (.codecEncodeVarint value) := of_none fun _ => rfl

theorem codecIsCompressible (delta : U64) : Statement (.codecIsCompressible delta) := of_none fun _ => rfl

theorem codecEncodeCompressed (compressedHeader : CHCode) (smallValue : SmallValue) : Statement (.codecEncodeCompressed compressedHeader smallValue) := of_none fun _ => rfl

theorem codecEncodeFullHeader (compressedHeader : CHCode) (fullHeader : FHCode) (trapType : TTCode) : Statement (.codecEncodeFullHeader compressedHeader fullHeader trapType) := of_none fun _ => rfl

theorem codecCompressedHeaderFor (fullHeader : FHCode) : Statement (.codecCompressedHeaderFor fullHeader) := of_none fun _ => rfl

theorem codecEncodePacket (p : TracePacket) (shape : Shape) : Statement (.codecEncodePacket p shape) := of_none fun _ => rfl

theorem eventNONE (address timestamp : U64) : Statement (.eventNONE address timestamp) := of_event (fun _ => rfl) rfl

theorem eventBT (address timestamp : U64) : Statement (.eventBT address timestamp) := of_event (fun _ => rfl) rfl

theorem eventBNT (address timestamp : U64) : Statement (.eventBNT address timestamp) := of_event (fun _ => rfl) rfl

theorem eventIJ (address timestamp : U64) : Statement (.eventIJ address timestamp) := of_event (fun _ => rfl) rfl

theorem eventUJ (address timestamp : U64) : Statement (.eventUJ address timestamp) := of_event (fun _ => rfl) rfl

theorem eventEXC (address timestamp : U64) : Statement (.eventEXC address timestamp) := of_event (fun _ => rfl) rfl

theorem eventINT (address timestamp : U64) : Statement (.eventINT address timestamp) := of_event (fun _ => rfl) rfl

theorem eventRET (address timestamp : U64) : Statement (.eventRET address timestamp) := of_event (fun _ => rfl) rfl

end Sys2Proof.Laws.WordLength
end

