-- ==== Sys2Proof/Laws/Table.lean ====
section
/-! SUPPORT. The predictor table: read after write, and the canonical form that every write keeps (log 20). -/

namespace Sys2Proof.Machine

theorem tabWfFrom_cons {n lo k : Nat} {c : Cell} {t : Table} :
    tabWfFrom n lo ((k, c) :: t) = true ↔ lo ≤ k ∧ k < n ∧ c ≠ weakNotTaken ∧ tabWfFrom n (k + 1) t = true := by
  simp [tabWfFrom, and_assoc]

/-- A smaller lower bound keeps the form. -/
theorem tabWfFrom_mono {n lo lo' : Nat} {t : Table} (h : tabWfFrom n lo t = true) (hle : lo' ≤ lo) :
    tabWfFrom n lo' t = true := by
  cases t with
  | nil => rfl
  | cons kc t =>
    obtain ⟨k, c⟩ := kc
    rw [tabWfFrom_cons] at h ⊢
    exact ⟨hle.trans h.1, h.2⟩

/-- A cell below every listed one is at its reset value. -/
theorem tabRead_below {n lo i : Nat} {t : Table} (h : tabWfFrom n lo t = true) (hi : i < lo) :
    tabRead t i = weakNotTaken := by
  induction t generalizing lo with
  | nil => rfl
  | cons kc t ih =>
    obtain ⟨k, c⟩ := kc
    rw [tabWfFrom_cons] at h
    have hk : k ≠ i := by omega
    simp only [tabRead, hk, if_false]
    exact ih h.2.2.2 (by omega)

theorem tabRead_tabCons_self {n i : Nat} {v : Cell} {t : Table} (h : tabWfFrom n (i + 1) t = true) :
    tabRead (tabCons i v t) i = v := by
  unfold tabCons
  split
  · rename_i hv
    rw [tabRead_below h (Nat.lt_succ_self i), hv]
  · simp [tabRead]

theorem tabRead_tabCons_other {i j : Nat} (v : Cell) (t : Table) (hij : j ≠ i) :
    tabRead (tabCons i v t) j = tabRead t j := by
  unfold tabCons
  split
  · rfl
  · simp [tabRead, hij.symm]

theorem tabCons_wf {n lo i : Nat} {v : Cell} {t : Table} (h : tabWfFrom n (i + 1) t = true) (hlo : lo ≤ i)
    (hi : i < n) : tabWfFrom n lo (tabCons i v t) = true := by
  unfold tabCons
  split
  · exact tabWfFrom_mono h (by omega)
  · rename_i hv
    exact tabWfFrom_cons.2 ⟨hlo, hi, hv, h⟩

/-- A write reads back. -/
theorem tabRead_tabWrite_self {n lo i : Nat} {v : Cell} {t : Table} (h : tabWfFrom n lo t = true) :
    tabRead (tabWrite t i v) i = v := by
  induction t generalizing lo with
  | nil => exact tabRead_tabCons_self (n := n) rfl
  | cons kc t ih =>
    obtain ⟨k, c⟩ := kc
    have h' := tabWfFrom_cons.1 h
    simp only [tabWrite]
    split
    · rename_i hik
      exact tabRead_tabCons_self (n := n) (tabWfFrom_cons.2 ⟨hik, h'.2⟩)
    · split
      · rename_i hik
        subst hik
        exact tabRead_tabCons_self h'.2.2.2
      · rename_i hik
        have hk : k ≠ i := fun e => hik e.symm
        simp only [tabRead, hk, if_false]
        exact ih h'.2.2.2

/-- A write leaves every other cell alone, in canonical form or not. -/
theorem tabRead_tabWrite_other {i j : Nat} (v : Cell) (t : Table) (hij : j ≠ i) :
    tabRead (tabWrite t i v) j = tabRead t j := by
  induction t with
  | nil => exact tabRead_tabCons_other v [] hij
  | cons kc t ih =>
    obtain ⟨k, c⟩ := kc
    simp only [tabWrite]
    split
    · exact tabRead_tabCons_other v _ hij
    · split
      · rename_i hik
        subst hik
        rw [tabRead_tabCons_other v t hij]
        simp [tabRead, hij.symm]
      · simp only [tabRead]
        split
        · rfl
        · exact ih

theorem tabWfFrom_tabWrite {n lo i : Nat} {v : Cell} {t : Table} (h : tabWfFrom n lo t = true) (hlo : lo ≤ i)
    (hi : i < n) : tabWfFrom n lo (tabWrite t i v) = true := by
  induction t generalizing lo with
  | nil => exact tabCons_wf rfl hlo hi
  | cons kc t ih =>
    obtain ⟨k, c⟩ := kc
    have h' := tabWfFrom_cons.1 h
    simp only [tabWrite]
    split
    · rename_i hik
      exact tabCons_wf (tabWfFrom_cons.2 ⟨hik, h'.2⟩) hlo hi
    · split
      · rename_i hik
        subst hik
        exact tabCons_wf h'.2.2.2 hlo hi
      · exact tabWfFrom_cons.2 ⟨h'.1, h'.2.1, h'.2.2.1, ih h'.2.2.2 (by omega)⟩

/-- Every write keeps the canonical form. -/
theorem tabWf_tabWrite {n i : Nat} {v : Cell} {t : Table} (h : tabWf n t = true) (hi : i < n) :
    tabWf n (tabWrite t i v) = true :=
  tabWfFrom_tabWrite h (Nat.zero_le i) hi

/-- The table at reset is in canonical form. -/
theorem tabWf_nil (n : Nat) : tabWf n [] = true := rfl

/-- The index lies in the table (20_memory.md R51). -/
theorem predictorIndex_lt {n : Nat} (pc : U64) (hn : 1 ≤ n) : predictorIndex n pc < n :=
  Nat.mod_lt _ hn

end Sys2Proof.Machine
end

