-- ==== Sys2Proof/Tests/Slice0.lean ====
section
/-! SUPPORT. Tests: the checks of WellFormed refuse ill-formed terms; words written out bit by bit from the spec's encodings
decode to their rows; one small step per instruction against a value of 95_test_vectors.md (its line is named; hand worked
there, not measured); a witness for the hypotheses of every statement that has some. -/

namespace Sys2Proof.Tests

open Sys2Proof Sys2Proof.Machine

/-- A view of the state a step answers. -/
def after {α : Type} (view : State → α) : Result → Option α
  | .next t => some (view t)
  | .fault _ => none
  | .refused _ => none

/-- A block with given pipeline slots and baseline, for the generators. -/
def staged (newer older : IngressEvent) (prev : U64) : State :=
  { State.reset with stage0 := newer, stage1 := older, prevTimestamp := prev }

/-- A block inside an open segment, whose previous event and baseline are given. -/
def inSegment (m : BranchMode) (previous : IngressEvent) (prev : U64) : State :=
  { State.reset with st := .data, enabled := true, mode := m, stage0 := previous, prevTimestamp := prev }

/-- What a push appended to an empty sink, and the baseline after it. -/
def appended (r : Result) : Option (List Byte × U64) :=
  after (fun t => (t.sink, t.prevTimestamp)) r

/-! ## Ill-formed terms -/

theorem test_wf_default : defaultParams.wf := by decide

theorem test_wf_refuses_equal_ch : ¬ Params.wf { defaultParams with chIJ := 0b10#2 } := by decide

theorem test_wf_refuses_equal_fh : ¬ Params.wf { defaultParams with fhRES := 0b000#3 } := by decide

theorem test_wf_refuses_zero_tt : ¬ Params.wf { defaultParams with ttINTERRUPT := 0b000#3 } := by decide

theorem test_wf_refuses_other_hit : ¬ Params.wf { defaultParams with fhHIT := 0b110#3 } := by decide

theorem test_wf_refuses_other_miss : ¬ Params.wf { defaultParams with fhMISS := 0b000#3 } := by decide

theorem test_wf_refuses_wide_sync : ¬ Packet.wf (.sync 0x8000000000000000#64 0) := by decide

theorem test_wf_refuses_wide_uj : ¬ Packet.wf (.uj 0x8000000000000000#64 0) := by decide

theorem test_wf_refuses_wide_trap : ¬ Packet.wf (.trap .interrupt 0x8000000000000000#64 0) := by decide

theorem test_inMode_refuses_tb : ¬ Packet.inMode .prediction (.tb 0) := by decide

theorem test_inMode_refuses_hit : ¬ Packet.inMode .target (.hit 1) := by decide

theorem test_inMode_refuses_reserved_mode : ¬ Packet.inMode .history (.ij 0) := by decide

theorem test_fits_refuses_64_compressed : ¬ Shape.fits .compressed ⟨0#2, 0#3, 0#3, 0, 64#64⟩ := by decide

theorem test_fits_refuses_63_full : ¬ Shape.fits .full1 ⟨0#2, 0#3, 0#3, 0, 63#64⟩ := by decide

theorem test_fits_refuses_wide_address :
    ¬ Shape.fits .full2 ⟨2#2, 5#3, 0#3, 0x8000000000000000#64, 0⟩ := by decide

theorem test_wf_refuses_msb_64 : ¬ Instr.wf (.codecByteCount 64) := by decide

theorem test_wf_refuses_msb_below : ¬ Instr.wf (.codecByteCount (-2)) := by decide

theorem test_wf_refuses_unfit_record : ¬ Instr.wf (.codecEncodePacket ⟨0#2, 0#3, 0#3, 0, 64#64⟩ .compressed) := by
  decide

/-! ## Words written out from the encodings (30_encoding.md R70 to R78, R90, R97) -/

theorem test_word_sync : decodeTableWord 8 0b00010110 = some .sync := by decide

theorem test_word_tbC : decodeIn defaultParams (.stream .target) [0b00000100#8] = .ok .tbC [] := by decide

theorem test_word_tbF : decodeIn defaultParams (.stream .target) [0b00000010#8] = .ok .tbF [] := by decide

theorem test_word_ntC : decodeIn defaultParams (.stream .target) [0b00001001#8] = .ok .ntC [] := by decide

theorem test_word_ntF : decodeIn defaultParams (.stream .target) [0b00000110#8] = .ok .ntF [] := by decide

theorem test_word_ijC : decodeIn defaultParams (.stream .target) [0b00000111#8] = .ok .ijC [] := by decide

theorem test_word_ijF : decodeTableWord 8 0b00001110 = some .ijF := by decide

theorem test_word_uj : decodeTableWord 8 0b00001010 = some .uj := by decide

theorem test_word_trapE : decodeTableWord 8 0b00110010 = some .trapE := by decide

theorem test_word_trapI : decodeTableWord 8 0b01010010 = some .trapI := by decide

theorem test_word_trapR : decodeTableWord 8 0b10010010 = some .trapR := by decide

theorem test_word_hitC : decodeIn defaultParams (.stream .prediction) [0b00001100#8] = .ok .hitC [] := by decide

theorem test_word_hitF : decodeIn defaultParams (.stream .prediction) [0b00000010#8] = .ok .hitF [] := by decide

theorem test_word_missC : decodeIn defaultParams (.stream .prediction) [0b00000101#8] = .ok .missC [] := by decide

theorem test_word_missF : decodeIn defaultParams (.stream .prediction) [0b00000110#8] = .ok .missF [] := by decide

theorem test_word_val : decodeTableWord 8 0b00011010 = some .val := by decide

theorem test_word_res : decodeTableWord 8 0b00011110 = some .res := by decide

theorem test_word_eventNONE : decodeTableWord 8 0b000 = some (.eventNONE 0 0) := by decide

theorem test_word_eventBT : decodeTableWord 8 0b001 = some (.eventBT 0 0) := by decide

theorem test_word_eventBNT : decodeTableWord 8 0b010 = some (.eventBNT 0 0) := by decide

theorem test_word_eventIJ : decodeTableWord 8 0b011 = some (.eventIJ 0 0) := by decide

theorem test_word_eventUJ : decodeTableWord 8 0b100 = some (.eventUJ 0 0) := by decide

theorem test_word_eventEXC : decodeTableWord 8 0b101 = some (.eventEXC 0 0) := by decide

theorem test_word_eventINT : decodeTableWord 8 0b110 = some (.eventINT 0 0) := by decide

theorem test_word_eventRET : decodeTableWord 8 0b111 = some (.eventRET 0 0) := by decide

/-- Address 0x102 in bytes 1 to 8, timestamp 3 in bytes 9 to 16 (log 5). -/
theorem test_word_event_fields :
    decodeTableWord 136 (0b100 + 0x102 * 2 ^ 8 + 3 * 2 ^ 72) = some (.eventUJ 0x102#64 3#64) := by decide

theorem test_word_refused_trap_type_outside_trap :
    decodeIn defaultParams (.stream .target) [0b00110110#8] = .bad .reservedHeader := by decide

theorem test_word_refused_trap_without_type :
    decodeIn defaultParams (.stream .target) [0b00010010#8] = .bad .reservedHeader := by decide

theorem test_word_refused_in_history :
    decodeIn defaultParams (.stream .history) [0b00000111#8] = .bad .modeHasNoDataStep := by decide

theorem test_word_refused_kind_8 : decodeIn defaultParams .ingress [0b00001000#8] = .bad .notAKindCode := by decide

theorem test_encode_sync : encode defaultParams .sync = some [0x16#8] := by decide

/-- PROG3 (3.3): Sync, HIT.c 3, MISS.c 4, MISS.f 100, HIT.c 2, TRAP.E, read back. -/
theorem test_stream_prog3 :
    decodeStream defaultParams .prediction 6
      [0x16#8, 0x00#8, 0x81#8, 0x80#8, 0x0C#8, 0x11#8, 0x06#8, 0xE4#8, 0x08#8, 0x32#8, 0x00#8, 0x8A#8, 0x83#8] =
    .ok [.sync 0x80 0, .hit 3, .miss 4, .miss 100, .hit 2, .trap .exception 0x500 3] [] := by decide

/-- A step fetches the word and runs it: TB.f as the first request after reset, delta 0, so the compressed form. -/
theorem test_step_fetches : after (fun t => t.sink) (step (State.reset.withFetchWord 8 0b11111100)) = some [0x00#8] := by
  decide

/-- Lines of R99 become calls, the first line first. -/
theorem test_script_lines :
    (State.reset.withScript [.new 1024, .mode .prediction, .enable, .disable, .reset, .peek 3]).inbox =
      [.call (.construct 1024), .call (.setMode .prediction), .call (.setEnabled true), .call (.setEnabled false),
       .call .reset, .call (.predictorPeek 3)] := by decide

/-! ## Packet rows -/

/-- Y3 of 2.5. -/
theorem test_sync_y3 :
    appended (exec .sync (staged ⟨0x80000000, 100, .none⟩ ⟨0, 0, .none⟩ 0)) =
      some ([0x16#8, 0x00#8, 0x00#8, 0x00#8, 0x00#8, 0x84#8, 0xE4#8], 100) := by decide

/-- Y4 of 2.5: the longest packet. -/
theorem test_sync_y4 :
    appended (exec .sync (staged ⟨0xFFFFFFFFFFFFFFFF, 0xFFFFFFFFFFFFFFFF, .jumpUninferable⟩ ⟨0, 0, .none⟩ 0)) =
      some ([0x16#8, 0x7F#8, 0x7F#8, 0x7F#8, 0x7F#8, 0x7F#8, 0x7F#8, 0x7F#8, 0x7F#8, 0xFF#8,
        0x7F#8, 0x7F#8, 0x7F#8, 0x7F#8, 0x7F#8, 0x7F#8, 0x7F#8, 0x7F#8, 0x7F#8, 0x81#8], 0xFFFFFFFFFFFFFFFF) := by
  decide

/-- PROG1, the call at t = 103. -/
theorem test_tbC : appended (exec .tbC (staged ⟨0x80000010, 103, .branchNotTaken⟩ ⟨0x80000004, 101, .branchTaken⟩ 100)) =
    some ([0x04#8], 101) := by decide

/-- T14 of 2.6: a delta below zero, modulo 2^64. -/
theorem test_tbF : appended (exec .tbF (staged ⟨0x108, 6, .none⟩ ⟨0x104, 5, .branchTaken⟩ 10)) =
    some ([0x02#8, 0x7B#8, 0x7F#8, 0x7F#8, 0x7F#8, 0x7F#8, 0x7F#8, 0x7F#8, 0x7F#8, 0x7F#8, 0x81#8], 5) := by decide

/-- PROG1, the call at t = 104. -/
theorem test_ntC : appended (exec .ntC (staged ⟨0x80000014, 104, .jumpInferable⟩ ⟨0x80000010, 103, .branchNotTaken⟩ 101)) =
    some ([0x09#8], 103) := by decide

/-- A delta of 64, header `encodeFullHeader(NA, NT, NONE)` and `vi(64)` of 2.2. -/
theorem test_ntF : appended (exec .ntF (staged ⟨0, 0, .none⟩ ⟨0, 64, .branchNotTaken⟩ 0)) =
    some ([0x06#8, 0xC0#8], 64) := by decide

/-- PROG1, the call at t = 110. -/
theorem test_ijC : appended (exec .ijC (staged ⟨0x80000100, 110, .jumpUninferable⟩ ⟨0x80000014, 104, .jumpInferable⟩ 103)) =
    some ([0x07#8], 104) := by decide

/-- The end of the run that makes H3 (2.9). -/
theorem test_ijF : appended (exec .ijF (staged ⟨0x8, 65, .none⟩ ⟨0x4, 64, .jumpInferable⟩ 0)) =
    some ([0x0E#8, 0xC0#8], 64) := by decide

/-- J1 of 2.7. -/
theorem test_uj_j1 : appended (exec .uj (staged ⟨0x80002000, 0, .none⟩ ⟨0x80000100, 110, .jumpUninferable⟩ 104)) =
    some ([0x0A#8, 0x00#8, 0xA1#8, 0x86#8], 110) := by decide

/-- J2 of 2.7: never compressed. -/
theorem test_uj_j2 : appended (exec .uj (staged ⟨0x41, 0, .none⟩ ⟨0x40, 0, .jumpUninferable⟩ 0)) =
    some ([0x0A#8, 0x80#8, 0x80#8], 0) := by decide

/-- P1 of 2.8. -/
theorem test_trapE : appended (exec .trapE (staged ⟨0x80000400, 0, .none⟩ ⟨0x80002004, 211, .exception⟩ 110)) =
    some ([0x32#8, 0x02#8, 0xA4#8, 0xE5#8], 211) := by decide

/-- P3 of 2.8. -/
theorem test_trapI : appended (exec .trapI (staged ⟨0x80000400, 0, .none⟩ ⟨0x80002008, 305, .interrupt⟩ 300)) =
    some ([0x52#8, 0x04#8, 0xA4#8, 0x85#8], 305) := by decide

/-- P2 of 2.8. -/
theorem test_trapR : appended (exec .trapR (staged ⟨0x80002008, 0, .none⟩ ⟨0x80000400, 300, .trapReturn⟩ 211)) =
    some ([0x92#8, 0x04#8, 0xA4#8, 0xD9#8], 300) := by decide

/-- H3 of 2.9: the baseline stays. -/
theorem test_hitC : after (fun t => (t.sink, t.prevTimestamp, t.hitCount))
    (exec .hitC { staged ⟨0, 0, .none⟩ ⟨0, 9, .branchTaken⟩ 7 with hitCount := 63 }) = some ([0xFC#8], 7, 0) := by decide

/-- H5 of 2.9. -/
theorem test_hitF : after (fun t => (t.sink, t.hitCount))
    (exec .hitF { staged ⟨0, 0, .none⟩ ⟨0, 9, .none⟩ 7 with hitCount := 300 }) = some ([0x02#8, 0x2C#8, 0x82#8], 0) := by
  decide

/-- H6 of 2.9: a count of 0 emits nothing. -/
theorem test_hit_zero : after (fun t => t.sink) (exec .hitC State.reset) = some [] := by decide

/-- X3 of 2.12. -/
theorem test_hit_fault : after (fun t => (t.fault, t.sink, t.hitCount))
    (exec .hitC { staged ⟨0, 0, .none⟩ ⟨0, 9, .jumpUninferable⟩ 7 with hitCount := 2 }) =
      some (some .hitInvariant, [], 2) := by decide

/-- M5 of 2.10. -/
theorem test_missC : appended (exec .missC { staged ⟨0, 0, .none⟩ ⟨0, 63, .branchTaken⟩ 0 with missFlag := true }) =
    some ([0xFD#8], 63) := by decide

/-- M3 of 2.10. -/
theorem test_missF : appended (exec .missF { staged ⟨0, 0, .none⟩ ⟨0, 104, .branchNotTaken⟩ 4 with missFlag := true }) =
    some ([0x06#8, 0xE4#8], 104) := by decide

/-- X2 of 2.12. -/
theorem test_miss_fault : after (fun t => (t.fault, t.sink, t.missFlag))
    (exec .missC { staged ⟨0, 0, .none⟩ ⟨0, 9, .none⟩ 7 with missFlag := true }) =
      some (some .missInvariant, [], true) := by decide

theorem test_val : exec .val State.reset = .refused .reservedPacket := rfl

theorem test_res : exec .res State.reset = .refused .reservedPacket := rfl

/-! ## Control operations -/

/-- X1 of 2.12. -/
theorem test_construct_zero : exec (.construct 0) State.reset = .fault .constructZeroTable := rfl

theorem test_construct_four : after (fun t => (t.n, t.st, t.mode)) (exec (.construct 4) State.reset) =
    some (4, .idle, .target) := by decide

/-- 2.11: `mode` and the sink stay, the rest is cleared. -/
theorem test_reset : after (fun t => (t.st, t.enabled, t.mode, t.prevTimestamp, t.hitCount, t.tab, t.sink))
    (exec .reset { inSegment .prediction ⟨1, 2, .branchTaken⟩ 6 with hitCount := 7, tab := [(0, 3#2)], sink := [0x17#8] }) =
      some (.idle, false, .prediction, 0, 0, [], [0x17#8]) := rfl

/-- 2.4, step 4. -/
theorem test_setEnabled : after (fun t => (t.enabled, t.st, t.sink)) (exec (.setEnabled true) State.reset) =
    some (true, .idle, []) := by decide

/-- 2.4, step 1. -/
theorem test_getEnabled : after (fun t => t.ret) (exec .getEnabled State.reset) = some (.bool false) := by decide

theorem test_getMode : after (fun t => t.ret) (exec .getMode { State.reset with mode := .history }) =
    some (.mode .history) := by decide

theorem test_setMode : after (fun t => (t.mode, t.modeChanged)) (exec (.setMode .prediction) State.reset) =
    some (.prediction, false) := by decide

theorem test_setMode_mid_segment :
    after (fun t => (t.mode, t.modeChanged)) (exec (.setMode .target) (inSegment .prediction ⟨0, 0, .none⟩ 0)) =
      some (.target, true) := by decide

/-! ## Calls -/

/-- S5, call 2: the baseline rule of R198, value 0. -/
theorem test_push_s5 : appended (exec (.pushIngress ⟨0x1004, 1, .branchNotTaken⟩)
    (inSegment .target ⟨0x1000, 0, .branchTaken⟩ 0)) = some ([0x00#8], 0) := by decide

/-- PROG2, the call at t = 12: a hit and the previous call's miss. -/
theorem test_push_prog2 : after (fun t => (t.sink, t.prevTimestamp, t.hitCount, t.missFlag, t.tab))
    (exec (.pushIngress ⟨0x2000, 12, .branchTaken⟩)
      { inSegment .prediction ⟨0x2000, 11, .branchTaken⟩ 10 with missFlag := true, tab := [(0, 2#2)] }) =
      some ([0x05#8], 11, 1, false, [(0, 3#2)]) := rfl

/-- 2.4, step 11: a `None` in `stage1` emits nothing. -/
theorem test_eventNONE : appended (exec (.eventNONE 0x1014 5) (inSegment .target ⟨0x1010, 4, .none⟩ 4)) =
    some ([], 4) := by decide

/-- PROG3, the call at t = 4: the Hit packet goes before the miss that flushed it. -/
theorem test_eventBT : after (fun t => (t.sink, t.hitCount, t.missFlag, t.tab))
    (exec (.eventBT 0x10A 4) { inSegment .prediction ⟨0x102, 3, .branchNotTaken⟩ 0 with
      n := 4, hitCount := 3, tab := [(1, 0#2)] }) = some ([0x0C#8], 0, true, []) := by decide

/-- PROG3, the call at t = 1. -/
theorem test_eventBNT : after (fun t => (t.sink, t.hitCount, t.missFlag, t.tab))
    (exec (.eventBNT 0x102 1) { inSegment .prediction ⟨0x100, 0, .none⟩ 0 with n := 4 }) =
      some ([], 1, false, [(1, 0#2)]) := by decide

/-- S6b, the call at t = 6. -/
theorem test_eventIJ : after (fun t => (t.sink, t.prevTimestamp, t.hitCount))
    (exec (.eventIJ 0x2004 6) { inSegment .prediction ⟨0x2000, 5, .branchTaken⟩ 1 with hitCount := 4 }) =
      some ([0x10#8], 1, 0) := by decide

/-- 3.6 D: the stale count and a jump in `stage1`. -/
theorem test_eventUJ : after (fun t => (t.fault, t.sink, t.hitCount))
    (exec (.eventUJ 0x110 6) { inSegment .prediction ⟨0x10C, 5, .jumpUninferable⟩ 5 with hitCount := 2 }) =
      some (some .hitInvariant, [], 2) := by decide

/-- PROG3, the call at t = 107. -/
theorem test_eventEXC : after (fun t => (t.sink, t.hitCount))
    (exec (.eventEXC 0x200 107) { inSegment .prediction ⟨0x10A, 106, .branchTaken⟩ 104 with hitCount := 2 }) =
      some ([0x08#8], 0) := by decide

/-- PROG1, the call at t = 305: the TrapReturn before it. -/
theorem test_eventINT : appended (exec (.eventINT 0x80002008 305) (inSegment .target ⟨0x80000400, 300, .trapReturn⟩ 211)) =
    some ([0x92#8, 0x04#8, 0xA4#8, 0xD9#8], 300) := by decide

/-- PROG1, the call at t = 300: the Exception before it. -/
theorem test_eventRET : appended (exec (.eventRET 0x80000400 300) (inSegment .target ⟨0x80002004, 211, .exception⟩ 110)) =
    some ([0x32#8, 0x02#8, 0xA4#8, 0xE5#8], 211) := by decide

/-- The register view: bits 0 and [2:1] (R29). -/
theorem test_teCtrl_read : teCtrlRead (inSegment .prediction ⟨0, 0, .none⟩ 0) = 0b101#64 := by decide

/-- Bit 3 alone is `reset()` (R29, R161): `enabled` false, `mode` unchanged. -/
theorem test_teCtrl_write_reset : after (fun t => (t.enabled, t.mode, t.st))
    (teCtrlWrite 8 (inSegment .prediction ⟨0, 0, .none⟩ 0)) = some (false, .prediction, .idle) := by decide

/-! ## The predictor -/

theorem test_predictor_reset : after (fun t => t.tab) (exec .predictorReset { State.reset with tab := [(32, 3#2)] }) =
    some [] := by decide

/-- 2.1: `index` with N = 1024 and N = 3. -/
theorem test_predictor_index_mask : after (fun t => t.ret) (exec (.predictorIndex 0x7FE) State.reset) =
    some (.index 1023) := by decide

theorem test_predictor_index_mod : after (fun t => t.ret) (exec (.predictorIndex 0x2000) { State.reset with n := 3 }) =
    some (.index 1) := by decide

/-- 2.1, calls 1 and 8 of the sequence. -/
theorem test_predictor_predict_first : after (fun t => (t.ret, t.tab)) (exec (.predictorPredict 0x40 true) State.reset) =
    some (.bool false, [(32, 2#2)]) := by decide

theorem test_predictor_predict_last :
    after (fun t => (t.ret, t.tab)) (exec (.predictorPredict 0x40 true) { State.reset with tab := [(32, 0#2)] }) =
      some (.bool false, []) := by decide

/-- 2.1: 0x840 shares the cell of 0x40. -/
theorem test_predictor_peek : after (fun t => t.ret) (exec (.predictorPeek 0x840) { State.reset with tab := [(32, 3#2)] }) =
    some (.cell 3#2) := by decide

/-- S9. -/
theorem test_predictor_increment : after (fun t => t.ret) (exec (.predictorIncrement 3#2) State.reset) =
    some (.cell 3#2) := by decide

theorem test_predictor_decrement : after (fun t => t.ret) (exec (.predictorDecrement 0#2) State.reset) =
    some (.cell 0#2) := by decide

theorem test_predictor_isTaken : after (fun t => t.ret) (exec (.predictorIsTaken 1#2) State.reset) =
    some (.bool false) := by decide

/-! ## The codec -/

theorem test_codec_msb : after (fun t => t.ret) (exec (.codecMostSignificantBitIndex 300) State.reset) =
    some (.int 8) := by decide

/-- The division truncates toward zero. -/
theorem test_codec_byteCount : after (fun t => t.ret) (exec (.codecByteCount (-1)) State.reset) = some (.int 1) := by
  decide

/-- 2.2. -/
theorem test_codec_varint : after (fun t => t.ret) (exec (.codecEncodeVarint 0x123456789ABCDEF0) State.reset) =
    some (.bytes [0x70#8, 0x3D#8, 0x73#8, 0x55#8, 0x09#8, 0x4F#8, 0x15#8, 0x1A#8, 0x92#8]) := by decide

theorem test_codec_compressible : after (fun t => t.ret) (exec (.codecIsCompressible 64) State.reset) =
    some (.bool false) := by decide

theorem test_codec_compressed : after (fun t => t.ret) (exec (.codecEncodeCompressed 0b01#2 2#6) State.reset) =
    some (.bytes [0x09#8]) := by decide

theorem test_codec_fullHeader : after (fun t => t.ret) (exec (.codecEncodeFullHeader 0b10#2 4#3 0b100#3) State.reset) =
    some (.bytes [0x92#8]) := by decide

theorem test_codec_headerFor : after (fun t => t.ret) (exec (.codecCompressedHeaderFor 5#3) State.reset) =
    some (.header 0b10#2) := by decide

/-- P4 of 2.8 as a record. -/
theorem test_codec_packet :
    after (fun t => t.ret) (exec (.codecEncodePacket ⟨0b10#2, 4#3, 1#3, 0x500, 3⟩ .full2) State.reset) =
      some (.bytes [0x32#8, 0x00#8, 0x8A#8, 0x83#8]) := by decide

/-! ## Witnesses: the hypotheses of the statements can be met -/

theorem witness_word_hit : defaultParams.wf ∧ Instr.hitC.readIn (.stream .prediction) := by decide

theorem witness_word_event : defaultParams.wf ∧ (Instr.eventRET 1 2).readIn .ingress := by decide

theorem witness_word_val : Instr.val.readIn (.stream .history) := ⟨.history, rfl⟩

theorem witness_varint_last : encodeVarint 0xFFFFFFFFFFFFFFFF#64 ≠ [] ∧ (0xFFFFFFFFFFFFFFFF#64 : U64) ≠ 0 := by decide

theorem witness_varint_byte : 9 < (encodeVarint 0xFFFFFFFFFFFFFFFF#64).length := by decide

theorem witness_msb_nonzero : (0x8000000000000000#64 : U64) ≠ 0 ∧ (1#64 : U64) ≠ 0 := by decide

theorem witness_byteCount_ends : (-1 : Int) ≤ -1 ∧ (-1 : Int) ≤ 63 ∧ (-1 : Int) ≤ 63 ∧ (63 : Int) ≤ 63 := by decide

theorem witness_byteCount_value_one : (0x7F#64 : U64).toNat < 2 ^ 7 := by decide

theorem witness_byteCount_value_k :
    2 ≤ 2 ∧ 2 ^ (7 * (2 - 1)) ≤ (0x80#64 : U64).toNat ∧ (0x80#64 : U64).toNat < 2 ^ (7 * 2) := by decide

/-- The last two clauses meet at k = 10 and agree there. -/
theorem witness_byteCount_value_ten : 2 ^ (7 * (10 - 1)) ≤ (0x8000000000000000#64 : U64).toNat ∧
    2 ^ 63 ≤ (0x8000000000000000#64 : U64).toNat ∧ byteCount (mostSignificantBitIndex 0x8000000000000000#64) = 10 := by
  decide

theorem witness_reset_params : State.reset.params.wf := by decide

theorem witness_other_header : (5#3 : FHCode) ≠ State.reset.params.fhTB ∧ (5#3 : FHCode) ≠ State.reset.params.fhNT ∧
    (5#3 : FHCode) ≠ State.reset.params.fhIJ := by decide

theorem witness_packet_lengths :
    (63#64 : U64).toNat < 64 ∧ 64 ≤ (64#64 : U64).toNat ∧ (0x7FFFFFFFFFFFFFFF#64 : U64).toNat < 2 ^ 63 := by decide

theorem witness_full_first_byte : (encodePacket defaultParams (.sync 1 2)).map (fun b => b.extractLsb' 0 2) =
    [0b10#2, 0b01#2, 0b10#2] := by decide

theorem witness_packet_wide : defaultParams.wf ∧ (Packet.uj 0x7FFFFFFFFFFFFFFF#64 0).wf ∧
    (Packet.uj 0x7FFFFFFFFFFFFFFF#64 0).inMode .prediction := by decide

theorem witness_stream : ∀ q ∈ [Packet.sync 1 2, .hit 64, .miss 3, .trap .trapReturn 4 5], q.wf ∧ q.inMode .prediction := by
  simp
  exact .inr rfl

theorem witness_reserved_header : defaultParams.wf ∧
    encodePacket defaultParams (.trap .interrupt 0 0) = [0x52#8, 0x80#8, 0x80#8] ∧
    (0x52#8).extractLsb' 0 2 = defaultParams.chNA := by decide

theorem witness_alias : 1 ≤ 1 ∧ (0x102#64 : U64).toNat / 2 % 4 = (0x10A#64 : U64).toNat / 2 % 4 := by decide

theorem witness_predict : State.reset.fault = none ∧ tabWf State.reset.n State.reset.tab = true ∧
    (33 : Nat) ≠ (0x40#64 : U64).toNat / 2 % State.reset.n := by decide

theorem witness_predict_trained : tabWf 1024 [(3, 0#2), (1023, 3#2)] = true := by decide

/-- `fault = none` is all that the control operations, the Sync, UJ and Trap rows, `peek` and the resets ask. -/
theorem witness_accepting : State.reset.fault = none := rfl

theorem witness_construct : (1 : Nat) ≠ 0 := by decide

theorem witness_setMode_idle : State.reset.fault = none ∧ State.reset.st = .idle := by decide

theorem witness_setMode_data : (inSegment .target ⟨0, 0, .none⟩ 0).fault = none ∧
    (inSegment .target ⟨0, 0, .none⟩ 0).st = .data ∧ (inSegment .target ⟨0, 0, .none⟩ 0).enabled = true ∧
    BranchMode.prediction ≠ (inSegment .target ⟨0, 0, .none⟩ 0).mode := by decide

/-- `mode` is changed by `setMode`, `enabled` by `setEnabled` and by `reset`. -/
theorem witness_writer_fields :
    after (fun t => t.mode) (exec (.setMode .history) State.reset) ≠ some State.reset.mode ∧
    after (fun t => t.enabled) (exec (.setEnabled true) State.reset) ≠ some State.reset.enabled ∧
    after (fun t => (t.enabled, t.st)) (exec .reset (inSegment .target ⟨0, 0, .none⟩ 0)) = some (false, .idle) := by decide

/-- The stages, `st`, the baseline and the sink are changed by a push: the opening Sync. -/
theorem witness_writer_open : after (fun t => (t.stage0, t.st, t.prevTimestamp, t.sink))
    (exec (.eventBT 4 5) { State.reset with enabled := true }) =
      some (⟨4, 5, .branchTaken⟩, .data, 5, [0x16#8, 0x82#8, 0x85#8]) := by decide

/-- The baseline and the sink are changed by a packet row too, and the count by a Hit row. -/
theorem witness_writer_rows :
    (Instr.missF ∈ timestampRows ∧ after (fun t => (t.prevTimestamp, t.sink))
      (exec .missF { staged ⟨0, 0, .none⟩ ⟨0, 3, .branchTaken⟩ 1 with missFlag := true }) = some (3, [0x09#8])) ∧
    (Instr.hitC ∈ hitRows ∧ after (fun t => (t.hitCount, t.sink))
      (exec .hitC { State.reset with hitCount := 3 }) = some (0, [0x0C#8])) := by decide

/-- `missFlag`, the count and the table are changed by a push in Prediction Mode. -/
theorem witness_writer_prediction :
    after (fun t => (t.missFlag, t.tab)) (exec (.pushIngress ⟨0, 1, .branchTaken⟩)
      (inSegment .prediction ⟨0, 0, .none⟩ 0)) = some (true, [(0, 2#2)]) ∧
    after (fun t => t.hitCount) (exec (.pushIngress ⟨0, 1, .branchNotTaken⟩)
      (inSegment .prediction ⟨0, 0, .none⟩ 0)) = some 1 := by decide

/-- The fault is written by an asserting row and by a push in Prediction Mode. -/
theorem witness_writer_fault :
    (Instr.missC ∈ assertingRows ∧ after (fun t => t.fault) (exec .missC State.reset) = some (some .missInvariant)) ∧
    after (fun t => t.fault) (exec (.eventUJ 0x110 6)
      { inSegment .prediction ⟨0x10C, 5, .jumpUninferable⟩ 5 with hitCount := 2 }) = some (some .hitInvariant) := by decide

/-- An instruction that is no construction answers a state. -/
theorem witness_exec_next : exec .sync State.reset = .next (setRet .unit (genSync State.reset)) ∧
    (∀ n, Instr.sync ≠ .construct n) := ⟨rfl, by intro n h; cases h⟩

/-- Writes of the register view: strobe clear in Idle and, to another mode, in Data; the strobe alone, whatever the reserved
bits; the strobe with `enabled`; a faulted block. -/
theorem witness_teCtrl_write : State.reset.fault = none ∧ State.reset.st = .idle ∧ (0b0101#64 : U64).getLsbD 0 = true ∧
    (0b0101#64 : U64).extractLsb' 1 2 = modeCode .prediction ∧ (0b0101#64 : U64).getLsbD 3 = false := by decide

theorem witness_teCtrl_write_data : (inSegment .target ⟨0, 0, .none⟩ 0).fault = none ∧
    (inSegment .target ⟨0, 0, .none⟩ 0).st = .data ∧ BranchMode.prediction ≠ (inSegment .target ⟨0, 0, .none⟩ 0).mode ∧
    (0b0101#64 : U64).extractLsb' 1 2 = modeCode .prediction ∧ (0b0101#64 : U64).getLsbD 3 = false := by decide

theorem witness_teCtrl_strobe : (8#64 : U64).extractLsb' 0 4 = 0b1000#4 ∧
    (0xFFFFFFFFFFFFFFF8#64 : U64).extractLsb' 0 4 = (8#64 : U64).extractLsb' 0 4 ∧
    (0b1001#64 : U64).getLsbD 3 = true ∧ (0b1001#64 : U64).extractLsb' 0 3 ≠ 0#3 := by decide

theorem witness_teCtrl_faulted : { State.reset with fault := some .hitInvariant }.fault = some .hitInvariant := rfl

theorem witness_direct_small : (staged ⟨0, 0, .none⟩ ⟨0, 63, .branchTaken⟩ 0).fault = none ∧
    (staged ⟨0, 0, .none⟩ ⟨0, 63, .branchTaken⟩ 0).params.wf ∧
    (63#64 : U64) = (staged ⟨0, 0, .none⟩ ⟨0, 63, .branchTaken⟩ 0).stage1.timestamp -
      (staged ⟨0, 0, .none⟩ ⟨0, 63, .branchTaken⟩ 0).prevTimestamp ∧ (63#64 : U64).toNat < 64 := by decide

theorem witness_direct_large : (staged ⟨0, 0, .none⟩ ⟨0, 64, .branchTaken⟩ 0).params.wf ∧
    (64#64 : U64) = (staged ⟨0, 0, .none⟩ ⟨0, 64, .branchTaken⟩ 0).stage1.timestamp -
      (staged ⟨0, 0, .none⟩ ⟨0, 64, .branchTaken⟩ 0).prevTimestamp ∧ 64 ≤ (64#64 : U64).toNat := by decide

theorem witness_trap_row : State.reset.fault = none ∧ (Instr.trapI = .trapI ∧ 0b010#3 = State.reset.params.ttINTERRUPT) := by
  decide

/-- A block with pending hits, for the Hit rows: the count, `stage1`, `missFlag`. -/
def counted (c : U64) (k : EventKind) (miss : Bool) : State :=
  { staged ⟨0, 0, .none⟩ ⟨0, 9, k⟩ 7 with hitCount := c, missFlag := miss }

theorem witness_hit_row_zero : (counted 0 .none false).fault = none ∧ (counted 0 .none false).params.wf ∧
    (counted 0 .none false).hitCount = 0 := by decide

theorem witness_hit_row_small : (counted 63 .none false).hitCount ≠ 0 ∧ (counted 63 .none false).missFlag = false ∧
    (counted 63 .none false).stage1.kind = .none ∧ (counted 63 .none false).hitCount.toNat < 64 := by decide

theorem witness_hit_row_large : (counted 64 .branchTaken false).hitCount ≠ 0 ∧
    (counted 64 .branchTaken false).missFlag = false ∧ (counted 64 .branchTaken false).stage1.kind = .branchTaken ∧
    64 ≤ (counted 64 .branchTaken false).hitCount.toNat := by decide

theorem witness_hit_row_fault : (counted 2 .jumpUninferable false).hitCount ≠ 0 ∧
    (counted 2 .jumpUninferable false).params.assertMode = .fault ∧
    ¬ ((counted 2 .jumpUninferable false).stage1.kind = .branchTaken ∨
      (counted 2 .jumpUninferable false).stage1.kind = .branchNotTaken ∨
      (counted 2 .jumpUninferable false).stage1.kind = .none) := by decide

/-- `ASSERT_MODE = continue` is a legal parameter. -/
theorem witness_continue : Params.wf { defaultParams with assertMode := .continue } := by decide

theorem witness_miss_row : (counted 1 .branchNotTaken true).fault = none ∧ (counted 1 .branchNotTaken true).params.wf ∧
    (2#64 : U64) = (counted 1 .branchNotTaken true).stage1.timestamp - (counted 1 .branchNotTaken true).prevTimestamp ∧
    (counted 1 .branchNotTaken true).stage1.kind = .branchNotTaken ∧
    (counted 1 .branchNotTaken true).hitCount = 1 ∧ (2#64 : U64).toNat < 64 := by decide

theorem witness_miss_row_fault : (counted 2 .branchTaken true).params.assertMode = .fault ∧
    ¬ ((counted 2 .branchTaken true).hitCount = 0 ∨ (counted 2 .branchTaken true).hitCount = 1) := by decide

theorem witness_table_idle_disabled : State.reset.fault = none ∧ State.reset.st = .idle ∧ State.reset.enabled = false := by
  decide

theorem witness_table_idle_enabled : { State.reset with enabled := true }.fault = none ∧
    { State.reset with enabled := true }.st = .idle ∧ { State.reset with enabled := true }.enabled = true := by decide

theorem witness_table_data_enabled : (inSegment .target ⟨0, 0, .none⟩ 0).fault = none ∧
    (inSegment .target ⟨0, 0, .none⟩ 0).st = .data ∧ (inSegment .target ⟨0, 0, .none⟩ 0).enabled = true := by decide

theorem witness_table_data_disabled : { inSegment .target ⟨0, 0, .none⟩ 0 with enabled := false }.fault = none ∧
    { inSegment .target ⟨0, 0, .none⟩ 0 with enabled := false }.st = .data ∧
    { inSegment .target ⟨0, 0, .none⟩ 0 with enabled := false }.enabled = false := by decide

theorem witness_event_row : (Instr.eventUJ 1 2, EventKind.jumpUninferable) ∈
    [(Instr.eventNONE 1 2, EventKind.none), (.eventBT 1 2, .branchTaken), (.eventBNT 1 2, .branchNotTaken),
      (.eventIJ 1 2, .jumpInferable), (.eventUJ 1 2, .jumpUninferable), (.eventEXC 1 2, .exception),
      (.eventINT 1 2, .interrupt), (.eventRET 1 2, .trapReturn)] := by decide

theorem witness_target_segment : RunsDataStep .target (inSegment .target ⟨4, 5, .exception⟩ 3) ∧
    (inSegment .target ⟨4, 5, .exception⟩ 3).params.wf := ⟨⟨rfl, rfl, rfl, rfl, rfl⟩, by decide⟩

theorem witness_reserved_segment : RunsDataStep .history (inSegment .history ⟨4, 5, .exception⟩ 3) ∧
    RunsDataStep .reserved (inSegment .reserved ⟨4, 5, .exception⟩ 3) :=
  ⟨⟨rfl, rfl, rfl, rfl, rfl⟩, ⟨rfl, rfl, rfl, rfl, rfl⟩⟩

/-- The four rows of the predict sub-stage: a hit, a miss, a jump, `None`. -/
theorem witness_predict_hit : tabWf State.reset.n State.reset.tab = true ∧
    (predictTable (tabRead State.reset.tab 16) false).1 = true ∧
    (predictTable (tabRead State.reset.tab 16) true).1 = false := by decide

theorem witness_predict_kinds : (staged ⟨0x20, 0, .branchTaken⟩ ⟨0, 0, .none⟩ 0).stage0.kind = .branchTaken ∧
    (staged ⟨0x20, 0, .interrupt⟩ ⟨0, 0, .none⟩ 0).stage0.kind = .interrupt ∧
    (staged ⟨0x20, 0, .none⟩ ⟨0, 0, .none⟩ 0).stage0.kind = .none := by decide

/-- A Prediction Mode segment with pending hits, for the arms: the previous kind, the count, `missFlag`. -/
def predicting (k : EventKind) (c : U64) (miss : Bool) : State :=
  { inSegment .prediction ⟨0x10, 5, k⟩ 4 with hitCount := c, missFlag := miss }

theorem witness_predicting (k : EventKind) (c : U64) (miss : Bool) : RunsDataStep .prediction (predicting k c miss) :=
  ⟨rfl, rfl, rfl, rfl, rfl⟩

/-- A call that runs no data step. -/
theorem witness_no_data_step : ¬ RunsDataStep .prediction State.reset ∧
    exec (.pushIngress ⟨1, 2, .branchTaken⟩) State.reset = .next { State.reset with stage0 := ⟨1, 2, .branchTaken⟩ } :=
  ⟨fun h => absurd h.2.1 (by decide), rfl⟩

/-- The state of a call after the shift, for the arms. -/
def shifted (e : IngressEvent) (s : State) : State := { s with stage1 := s.stage0, stage0 := e }

theorem witness_hit_arm : forceFlush (shifted ⟨0x20, 6, .jumpInferable⟩ (predicting .branchTaken 2 false)) = true ∧
    (predictStage (shifted ⟨0x20, 6, .jumpInferable⟩ (predicting .branchTaken 2 false))).hitCount ≠ 0 ∧
    (predicting .branchTaken 2 false).missFlag = false ∧
    (predicting .branchTaken 2 false).stage0.kind = .branchTaken := by decide

theorem witness_miss_arm : ¬ (forceFlush (shifted ⟨0x20, 6, .branchNotTaken⟩ (predicting .branchTaken 0 true)) = true ∧
      (predictStage (shifted ⟨0x20, 6, .branchNotTaken⟩ (predicting .branchTaken 0 true))).hitCount ≠ 0) ∧
    (predicting .branchTaken 0 true).missFlag = true ∧ (predicting .branchTaken 0 true).stage0.kind = .branchTaken ∧
    (predictStage (shifted ⟨0x20, 6, .branchNotTaken⟩ (predicting .branchTaken 0 true))).hitCount = 1 := by decide

theorem witness_third_arm : ¬ (forceFlush (shifted ⟨0x20, 6, .exception⟩ (predicting .jumpUninferable 0 false)) = true ∧
      (predictStage (shifted ⟨0x20, 6, .exception⟩ (predicting .jumpUninferable 0 false))).hitCount ≠ 0) ∧
    (predicting .jumpUninferable 0 false).missFlag = false := by decide

/-- The miss arm leaves no fault, and where its invariant fails one. -/
theorem witness_commit :
    (generateStage (forceFlush (shifted ⟨0x20, 6, .none⟩ (predicting .branchTaken 0 true)))
      (predictStage (shifted ⟨0x20, 6, .none⟩ (predicting .branchTaken 0 true)))).fault = none ∧
    (generateStage (forceFlush (shifted ⟨0x20, 6, .none⟩ (predicting .none 0 true)))
      (predictStage (shifted ⟨0x20, 6, .none⟩ (predicting .none 0 true)))).fault ≠ none := by decide

theorem witness_hit_fault : (predicting .jumpUninferable 2 false).params.assertMode = .fault ∧
    forceFlush (shifted ⟨0x20, 6, .jumpInferable⟩ (predicting .jumpUninferable 2 false)) = true ∧
    (predictStage (shifted ⟨0x20, 6, .jumpInferable⟩ (predicting .jumpUninferable 2 false))).hitCount ≠ 0 ∧
    ¬ ((predicting .jumpUninferable 2 false).stage0.kind = .branchTaken ∨
      (predicting .jumpUninferable 2 false).stage0.kind = .branchNotTaken ∨
      (predicting .jumpUninferable 2 false).stage0.kind = .none) := by decide

theorem witness_miss_fault : ¬ (forceFlush (shifted ⟨0x20, 6, .none⟩ (predicting .none 0 true)) = true ∧
      (predictStage (shifted ⟨0x20, 6, .none⟩ (predicting .none 0 true))).hitCount ≠ 0) ∧
    (predicting .none 0 true).missFlag = true ∧ ¬ ((predicting .none 0 true).stage0.kind = .branchTaken ∨
      (predicting .none 0 true).stage0.kind = .branchNotTaken) := by decide

theorem witness_faulted : { State.reset with fault := some .hitInvariant }.fault = some .hitInvariant ∧
    (pushedEvent (.eventBT 0 0)).isSome = true := by decide

theorem witness_faulted_pure : exec (.codecByteCount 7) { State.reset with fault := some .missInvariant } =
    .next { State.reset with fault := some .missInvariant, ret := .int 2 } := rfl

/-- A segment whose mode was changed, still enabled, and at its closing call. -/
theorem witness_mode_changed :
    ({ inSegment .target ⟨0, 0, .none⟩ 0 with modeChanged := true }.fault = none ∧
      { inSegment .target ⟨0, 0, .none⟩ 0 with modeChanged := true }.st = .data ∧
      { inSegment .target ⟨0, 0, .none⟩ 0 with modeChanged := true }.enabled = true ∧
      (pushedEvent (.eventINT 4 5)).isSome = true) ∧
    after (fun t => (t.st, t.modeChanged)) (exec (.eventINT 4 5)
      { inSegment .target ⟨0, 0, .none⟩ 0 with enabled := false, modeChanged := true }) = some (.idle, false) ∧
    after (fun t => (t.st, t.modeChanged)) (exec (.setEnabled false)
      { inSegment .target ⟨0, 0, .none⟩ 0 with modeChanged := true }) = some (.data, true) := by decide

theorem witness_one_packet : pushedEvent (.eventBT 3 4) = some ⟨3, 4, .branchTaken⟩ ∧
    (after (fun t => t.sink) (exec (.eventBT 3 4) (inSegment .target ⟨4, 5, .jumpInferable⟩ 3))) = some [0x0B#8] := by
  decide

/-- The baseline moves with a Direct packet. -/
theorem witness_baseline : appended (exec .tbC (staged ⟨0, 0, .none⟩ ⟨0, 1, .branchTaken⟩ 0)) = some ([0x04#8], 1) ∧
    Instr.tbC ≠ .reset := by decide

theorem witness_bit0 : SameUpToBit0 ⟨0x2000, 7, .branchTaken⟩ ⟨0x2001, 7, .branchTaken⟩ ∧
    AgreeUpToBit0 (inSegment .prediction ⟨0x30, 1, .none⟩ 2) (inSegment .prediction ⟨0x31, 1, .none⟩ 2) :=
  ⟨⟨by decide, rfl, rfl⟩, ⟨⟨by decide, rfl, rfl⟩, ⟨rfl, rfl, rfl⟩, rfl⟩⟩

theorem witness_state_wf : State.Wf (State.reset.withFetchWord 8 0x16) := ⟨by decide, by decide, rfl⟩

theorem witness_whole_packets : WholePackets { State.reset with sink := [0x16#8, 0x80#8, 0x80#8, 0x04#8] } :=
  ⟨[.sync 0 0, .tb 1], by simp, by decide⟩

theorem witness_step_next : step (State.reset.withFetchWord 8 0x16) = .next (setRet .unit (genSync State.reset)) := rfl

theorem witness_clean : RunsDataStep .prediction (predicting .branchTaken 0 true) ∧
    CleanAccounting (predicting .branchTaken 0 true) ∧ CleanAccounting (predicting .none 3 false) :=
  ⟨⟨rfl, rfl, rfl, rfl, rfl⟩, ⟨by decide, by decide⟩, ⟨by decide, by decide⟩⟩

theorem witness_clean_opening : { State.reset with enabled := true, mode := .prediction }.st = .idle ∧
    { State.reset with enabled := true, mode := .prediction }.hitCount = 0 ∧
    { State.reset with enabled := true, mode := .prediction }.missFlag = false := by decide

theorem witness_request_word : (State.reset.withFetchWord 8 0x0A).inbox = [.word (.stream .target) (tableBytes 8 0x0A)] ∧
    readRequest (.word (.stream .target) (tableBytes 8 0x0A)) = .ok .uj (List.replicate 16 0#8) := ⟨rfl, rfl⟩

theorem witness_request_bad : readRequest (.word (.stream .target) [0x36#8]) = .bad .reservedHeader := by decide

theorem witness_request_none : State.reset.inbox = [] := rfl

end Sys2Proof.Tests
end

section
/-! SUPPORT. The registers of the block (10_state.md): what a data step and a call leave alone, and the invariant that every
step keeps. -/

namespace Sys2Proof.Machine

/-! ## What a data step and a call leave alone -/

/-- A Target Mode data step writes only the sink and the baseline (43_target_mode.md R191). -/
theorem targetDataStep_frame (s : State) :
    targetDataStep s = { s with
      sink := (targetDataStep s).sink, prevTimestamp := (targetDataStep s).prevTimestamp } := by
  rcases targetDataStep_generated s with h | h
  · rw [h]
  · exact h.frame

theorem exists_predictStage_eq (s : State) : ∃ tab c, predictStage s = { s with tab := tab, hitCount := c } :=
  ⟨_, _, predictStage_eq s⟩

/-- A Prediction Mode data step leaves the segment, the control fields and the pipeline alone, and its table is the one the
predict sub-stage made (44_prediction_mode.md R210). -/
theorem predictionDataStep_frame {s : State} (hf : s.fault = none) :
    predictionDataStep s = { s with
      tab := (predictStage s).tab
      hitCount := (predictionDataStep s).hitCount
      missFlag := (predictionDataStep s).missFlag
      sink := (predictionDataStep s).sink
      prevTimestamp := (predictionDataStep s).prevTimestamp
      fault := (predictionDataStep s).fault } := by
  obtain ⟨tab, c, hp⟩ := exists_predictStage_eq s
  rcases predictionDataStep_cases hf with h | h | h | ⟨f, h⟩
  · rw [h, hp]; rfl
  · rw [h, hp]; rfl
  · rw [h, hp]
    rcases jumpTrapDispatch_generated { s with tab := tab, hitCount := c } with hj | hj
    · rw [hj]; rfl
    · rw [hj.frame]; rfl
  · rw [h, hp]; rfl

/-- A call writes no control field, no parameter and not the queue; it shifts the pipeline (42_encoder_control.md R167 to
R169). -/
theorem pushEvent_frame {e : IngressEvent} {s t : State} (h : pushEvent e s = .next t) :
    t = { shiftIn e s with
      st := t.st, prevTimestamp := t.prevTimestamp, hitCount := t.hitCount, missFlag := t.missFlag, tab := t.tab,
      sink := t.sink, fault := t.fault, modeChanged := t.modeChanged, ret := t.ret } := by
  obtain ⟨hf, ⟨-, -, rfl⟩ | ⟨-, -, rfl⟩ | ⟨-, -, rfl⟩ | ⟨-, -, -, -, rfl⟩ | ⟨-, -, -, -, rfl⟩⟩ := pushEvent_next h
  · rfl
  · rfl
  · rfl
  · rw [targetDataStep_frame]; rfl
  · rw [predictionDataStep_frame (s := shiftIn e s) hf]; rfl

/-- Outside Prediction Mode a call leaves the predictor, its accounting and the fault record alone as well. -/
theorem pushEvent_frame_of_not_prediction {e : IngressEvent} {s t : State} (h : pushEvent e s = .next t)
    (hm : s.mode ≠ .prediction) :
    t = { shiftIn e s with
      st := t.st, prevTimestamp := t.prevTimestamp, sink := t.sink, modeChanged := t.modeChanged, ret := t.ret } := by
  obtain ⟨-, ⟨-, -, rfl⟩ | ⟨-, -, rfl⟩ | ⟨-, -, rfl⟩ | ⟨-, -, -, -, rfl⟩ | ⟨-, -, -, hp, -⟩⟩ := pushEvent_next h
  · rfl
  · rfl
  · rfl
  · rw [targetDataStep_frame]; rfl
  · exact absurd hp hm

/-! ## The well-formed state -/

/-- The invariant reads the parameters, the number of cells and the table only. -/
theorem State.Wf.of_eq {s t : State} (h : s.Wf) (hp : t.params = s.params) (hn : t.n = s.n)
    (ht : tabWf s.n t.tab = true) : t.Wf := by
  obtain ⟨hparams, hcells, -⟩ := h
  exact ⟨hp ▸ hparams, hn ▸ hcells, hn ▸ ht⟩

theorem State.Wf.table {s : State} (h : s.Wf) : tabWf s.n s.tab = true := h.2.2

theorem tabWf_predictUpdate {s : State} (h : s.Wf) (pc : U64) (taken : Bool) :
    tabWf s.n (predictUpdate pc taken s).tab = true := by
  obtain ⟨-, hcells, htab⟩ := h
  exact tabWf_tabWrite htab (predictorIndex_lt pc hcells)

theorem tabWf_predictStage {s : State} (h : s.Wf) : tabWf s.n (predictStage s).tab = true := by
  unfold predictStage
  split
  · dsimp only
    split
    · exact tabWf_predictUpdate h _ _
    · exact tabWf_predictUpdate h _ _
  · exact h.table

theorem pushEvent_keeps_wf {e : IngressEvent} {s t : State} (hs : s.Wf) (h : pushEvent e s = .next t) : t.Wf := by
  have hframe := pushEvent_frame h
  refine hs.of_eq ((congrArg State.params hframe).trans rfl) ((congrArg State.n hframe).trans rfl) ?_
  by_cases hm : s.mode = .prediction
  · obtain ⟨hf, ⟨-, -, rfl⟩ | ⟨-, -, rfl⟩ | ⟨-, -, rfl⟩ | ⟨-, -, -, hm', -⟩ | ⟨-, -, -, -, rfl⟩⟩ := pushEvent_next h
    · exact hs.table
    · exact hs.table
    · exact hs.table
    · exact absurd (hm.symm.trans hm') (by decide)
    · rw [predictionDataStep_frame (s := shiftIn e s) hf]
      exact tabWf_predictStage (s := shiftIn e s) hs
  · rw [pushEvent_frame_of_not_prediction h hm]
    exact hs.table

theorem exec_keeps_wf {i : Instr} {s t : State} (hs : s.Wf) (h : exec i s = .next t) : t.Wf := by
  cases exec_next h with
  | construct n _ hn ht => exact ht ▸ ⟨hs.1, Nat.pos_of_ne_zero hn, tabWf_nil n⟩
  | result _ ht => exact ht ▸ hs
  | reset _ _ ht => exact ht ▸ hs.of_eq rfl rfl (tabWf_nil _)
  | setEnabled _ _ _ ht => exact ht ▸ hs
  | setMode _ _ _ ht => exact ht ▸ hs
  | predictorReset _ _ ht => exact ht ▸ hs.of_eq rfl rfl (tabWf_nil _)
  | predict pc b _ _ ht => exact ht ▸ hs.of_eq rfl rfl (tabWf_predictUpdate hs pc b)
  | packet u _ _ hg ht => rw [ht, hg.frame]; exact hs
  | hit _ _ _ ht => exact ht ▸ hs
  | raised _ _ _ ht => exact ht ▸ hs
  | push _ _ _ h => exact pushEvent_keeps_wf hs h

/-- What a step that answers a state did: nothing, or an instruction on the shorter queue. -/
theorem step_next {s t : State} (h : step s = .next t) :
    t = s ∨ ∃ (i : Instr) (rest : List Request), exec i { s with inbox := rest } = .next t := by
  unfold step at h
  split at h
  · cases h; exact .inl rfl
  · split at h
    · exact .inr ⟨_, _, h⟩
    · cases h

/-- Settles O55: the queue is no part of the invariant, and every instruction keeps it. -/
theorem stepKeepsStateWf : Obligations.StepKeepsStateWf := by
  intro s t hs h
  obtain rfl | ⟨i, rest, h⟩ := step_next h
  · exact hs
  · exact exec_keeps_wf (s := { s with inbox := rest }) hs h

end Sys2Proof.Machine
end

section
/-! SUPPORT. Who writes which register (10_state.md R20), the values at reset (R38), the baseline (R31). -/

namespace Sys2Proof.Machine

/-! ## Reset -/

/-- A second `reset()` finds nothing left to write. -/
theorem resetBlock_after_reset (r : Ret) (s : State) :
    setRet r (resetBlock (setRet r (resetBlock s))) = setRet r (resetBlock s) := rfl

theorem exec_reset_next {s : State} (h : s.fault = none) : exec .reset s = .next (setRet .unit (resetBlock s)) := by
  rw [exec_reset, accepting_none h]; rfl

/-- Settles O24. -/
theorem resetTwiceIsResetOnce : Obligations.ResetTwiceIsResetOnce := by
  intro s hf
  refine ⟨setRet .unit (resetBlock s), exec_reset_next hf, ?_, rfl, rfl, fun _ => rfl⟩
  rw [exec_reset_next (by simpa using hf), resetBlock_after_reset]

/-- Settles O53: each value is the one `State.constructed` writes. -/
theorem resetStateValues : Obligations.ResetStateValues :=
  ⟨rfl, rfl, rfl, rfl, rfl, rfl, rfl, rfl, rfl, fun _ => rfl, rfl, rfl, rfl⟩

/-- A block with an empty sink holds no packet, so it holds whole packets only. -/
theorem wholePackets_of_sink_nil {s : State} (h : s.sink = []) : WholePackets s :=
  ⟨[], by simp, h⟩

/-- With no hits and no miss pending the accounting is clean. -/
theorem cleanAccounting_of_nothing_pending {s : State} (hc : s.hitCount = 0) (hm : s.missFlag = false) :
    CleanAccounting s :=
  ⟨fun h => absurd (hm.symm.trans h) (by decide), fun h => absurd hc h⟩

theorem defaultParams_wf : defaultParams.wf := by decide

/-- Settles O54. -/
theorem resetStateMeetsTheInvariants : Obligations.ResetStateMeetsTheInvariants :=
  ⟨⟨defaultParams_wf, by decide, tabWf_nil _⟩, wholePackets_of_sink_nil rfl, cleanAccounting_of_nothing_pending rfl rfl⟩

/-! ## The fault record -/

/-- A check changes the fault record only under `ASSERT_MODE = fault` (60_exceptions.md R247). -/
theorem asserting_fault {f : BlockFault} {holds : Bool} {act : State → State} {s : State}
    (hact : (act s).fault = s.fault) (h : (asserting f holds act s).fault ≠ s.fault) : s.params.assertMode = .fault := by
  rcases asserting_cases f holds act s with ⟨-, hrun⟩ | ⟨-, hmode, -⟩
  · exact absurd (hrun ▸ hact) h
  · exact hmode

theorem genHit_fault {s : State} (h : (genHit s).fault ≠ s.fault) : s.params.assertMode = .fault :=
  asserting_fault rfl h

theorem genMiss_fault {s : State} (h : (genMiss s).fault ≠ s.fault) : s.params.assertMode = .fault :=
  asserting_fault rfl h

theorem hitRow_fault {s : State} (h : (hitRow s).fault ≠ s.fault) : s.params.assertMode = .fault := by
  unfold hitRow at h
  split at h
  · exact absurd rfl h
  · exact genHit_fault h

theorem Generated.fault {s u : State} (h : Generated s u) : u.fault = s.fault := by
  rw [h.frame]

theorem jumpTrapDispatch_fault (s : State) : (jumpTrapDispatch s).fault = s.fault := by
  rcases jumpTrapDispatch_generated s with h | h
  · rw [h]
  · exact h.fault

theorem generateStage_fault {flush : Bool} {s : State} (h : (generateStage flush s).fault ≠ s.fault) :
    s.params.assertMode = .fault := by
  unfold generateStage at h
  split at h
  · exact genHit_fault h
  · split at h
    · exact genMiss_fault h
    · exact absurd (jumpTrapDispatch_fault s) h

theorem commitMissFlag_fault (pending : Bool) (s : State) : (commitMissFlag pending s).fault = s.fault := by
  cases hf : s.fault with
  | none => rw [commitMissFlag_none hf, setMissFlag_fault, hf]
  | some f => rw [commitMissFlag_some hf, hf]

theorem predictionDataStep_fault {s : State} (h : (predictionDataStep s).fault ≠ s.fault) :
    s.params.assertMode = .fault := by
  rw [predictionDataStep, commitMissFlag_fault, ← predictStage_fault s] at h
  simpa using generateStage_fault h

/-- A call changes the fault record only in Prediction Mode and under `ASSERT_MODE = fault`. -/
theorem pushEvent_fault {e : IngressEvent} {s t : State} (h : pushEvent e s = .next t) (hne : t.fault ≠ s.fault) :
    s.params.assertMode = .fault := by
  obtain ⟨-, ⟨-, -, rfl⟩ | ⟨-, -, rfl⟩ | ⟨-, -, rfl⟩ | ⟨-, -, -, -, rfl⟩ | ⟨-, -, -, -, rfl⟩⟩ := pushEvent_next h
  · exact absurd rfl hne
  · exact absurd rfl hne
  · exact absurd rfl hne
  · rw [targetDataStep_frame] at hne; exact absurd rfl hne
  · exact predictionDataStep_fault (s := shiftIn e s) hne

/-- A Hit or Miss row changes the fault record only under `ASSERT_MODE = fault`. -/
theorem assertingRow_fault {i : Instr} {s t : State} (hi : i ∈ assertingRows) (h : exec i s = .next t)
    (hne : t.fault ≠ s.fault) : s.params.assertMode = .fault := by
  simp only [assertingRows, List.mem_cons, List.not_mem_nil, or_false] at hi
  rcases hi with rfl | rfl | rfl | rfl
  · rw [(runGenerator_next h).2] at hne; exact hitRow_fault hne
  · rw [(runGenerator_next h).2] at hne; exact hitRow_fault hne
  · rw [(runGenerator_next h).2] at hne; exact genMiss_fault hne
  · rw [(runGenerator_next h).2] at hne; exact genMiss_fault hne

/-! ## The writers of each register -/

/-- Settles O26: each effect an instruction can have names the registers it writes. -/
theorem onlyTheirWritersChangeRegisters : Obligations.OnlyTheirWritersChangeRegisters := by
  intro i s t h hc
  cases exec_next h with
  | construct n hi => exact absurd hi (hc n)
  | result r ht => simp [ht]
  | reset hf hi ht => simp [ht, hi]
  | setEnabled b hf hi ht => subst ht; simp [hi, writeEnabled]
  | setMode m hf hi ht => simp [ht, hi]
  | predictorReset hf hi ht => simp [ht, hi]
  | predict pc b hf hi ht => simp [ht, hi, predictUpdate]
  | packet u hf hi hg ht => rw [ht, hg.frame]; simp [hi]
  | hit hf hi _ ht => rw [ht, emitHit_eq]; simp [hi]
  | raised f hf hi ht =>
    have hmode : s.params.assertMode = .fault := assertingRow_fault hi h (by simp [ht, hf])
    simp [ht, hi, hf, hmode]
  | push e hf hi hpush =>
    have hpushed : (pushedEvent i).isSome = true := by rw [hi]; rfl
    by_cases hm : s.mode = .prediction
    · have hmode : t.fault ≠ none → s.params.assertMode = .fault := hf ▸ pushEvent_fault hpush
      rw [pushEvent_frame hpush]
      simpa [hpushed, hm, hf] using hmode
    · rw [pushEvent_frame_of_not_prediction hpush hm]
      simp [hpushed]

/-! ## The baseline -/

/-- Between `s` and `t` one packet other than Hit was appended, and the baseline of `t` is the timestamp of the event whose
packet it is: the newer one for Sync, the older one for any other (10_state.md R31). -/
def BaselinePacket (s t : State) : Prop :=
  ∃ q : Packet, t.sink = s.sink ++ encodePacket s.params q ∧ (∀ c, q ≠ .hit c) ∧
    ((∃ a ts, q = .sync a ts ∧ t.prevTimestamp = t.stage0.timestamp) ∨
     ((∀ a ts, q ≠ .sync a ts) ∧ t.prevTimestamp = t.stage1.timestamp))

/-- Every generator of a packet with a timestamp moves the baseline with its packet. -/
theorem Generated.baselinePacket {s u : State} (h : Generated s u) : BaselinePacket s u := by
  cases h with
  | sync h => exact ⟨.sync (syncAddress s) s.stage0.timestamp, h ▸ rfl, by simp, .inl ⟨_, _, rfl, h ▸ rfl⟩⟩
  | direct k h =>
    rw [h, genDirect_eq]
    exact ⟨directPacket k (deltaTimestamp s), rfl, by cases k <;> simp [directPacket],
      .inr ⟨by cases k <;> simp [directPacket], rfl⟩⟩
  | uj h => exact ⟨.uj (xorAddress s) (deltaTimestamp s), h ▸ rfl, by simp, .inr ⟨by simp, h ▸ rfl⟩⟩
  | trap r h => exact ⟨.trap r (xorAddress s) (deltaTimestamp s), h ▸ rfl, by simp, .inr ⟨by simp, h ▸ rfl⟩⟩

/-- A Prediction Mode data step that moves the baseline does so with a Miss packet or a packet of the jump and trap table;
the Hit arm and a fault leave it. -/
theorem predictionDataStep_baselinePacket {s : State} (hf : s.fault = none)
    (hne : (predictionDataStep s).prevTimestamp ≠ s.prevTimestamp) : BaselinePacket s (predictionDataStep s) := by
  obtain ⟨tab, c, hp⟩ := exists_predictStage_eq s
  rcases predictionDataStep_cases hf with h | h | h | ⟨f, h⟩ <;> rw [h, hp] at hne ⊢
  · exact absurd rfl hne
  · exact (Generated.direct .miss rfl : Generated { s with tab := tab, hitCount := c } _).baselinePacket
  · rcases jumpTrapDispatch_generated { s with tab := tab, hitCount := c } with hj | hj
    · rw [hj] at hne; exact absurd rfl hne
    · exact hj.baselinePacket
  · exact absurd rfl hne

/-- A call that moves the baseline appends the packet that moves it: the Sync of an opening or a closing, or a packet of a
data step. -/
theorem pushEvent_baselinePacket {e : IngressEvent} {s t : State} (h : pushEvent e s = .next t)
    (hne : t.prevTimestamp ≠ s.prevTimestamp) : BaselinePacket s t := by
  obtain ⟨hf, ⟨-, -, rfl⟩ | ⟨-, -, rfl⟩ | ⟨-, -, rfl⟩ | ⟨-, -, -, -, rfl⟩ | ⟨-, -, -, -, rfl⟩⟩ := pushEvent_next h
  · exact absurd rfl hne
  · exact (Generated.sync rfl : Generated (shiftIn e s) _).baselinePacket
  · exact (Generated.sync rfl : Generated (shiftIn e s) _).baselinePacket
  · rcases targetDataStep_generated (shiftIn e s) with hs | hg
    · rw [hs] at hne; exact absurd rfl hne
    · exact hg.baselinePacket
  · exact predictionDataStep_baselinePacket (s := shiftIn e s) hf hne

/-- Settles O51: only a packet row, through its generator, and a call move the baseline. -/
theorem baselineMovesOnlyWithATimestamp : Obligations.BaselineMovesOnlyWithATimestamp := by
  intro i s t h hr hc hne
  cases exec_next h with
  | construct n hi => exact absurd hi (hc n)
  | reset _ hi => exact absurd hi hr
  | packet u _ _ hg ht => subst ht; exact hg.baselinePacket
  | push _ _ _ hpush => exact pushEvent_baselinePacket hpush hne
  | result _ ht => exact absurd (ht ▸ rfl) hne
  | setEnabled _ _ _ ht => exact absurd (ht ▸ rfl) hne
  | setMode _ _ _ ht => exact absurd (ht ▸ rfl) hne
  | predictorReset _ _ ht => exact absurd (ht ▸ rfl) hne
  | predict _ _ _ _ ht => exact absurd (ht ▸ rfl) hne
  | hit _ _ _ ht => exact absurd (ht ▸ rfl) hne
  | raised _ _ _ ht => exact absurd (ht ▸ rfl) hne

end Sys2Proof.Machine
end

section
/-! SUPPORT. Bit 0 of an address is no part of what the block does (10_state.md R25, 20_memory.md R55): each operation takes
states that differ at most there to such states. -/

namespace Sys2Proof.Machine

/-- The state with both pipeline slots blanked: what two states that agree up to bit 0 have in common. -/
def blankStages (s : State) : State := { s with stage0 := emptyEvent, stage1 := emptyEvent }

variable {s s' : State} {e e' : IngressEvent}

/-! ## What two such states have in common -/

theorem SameUpToBit0.address_eq (h : SameUpToBit0 e e') : e.address >>> 1 = e'.address >>> 1 := h.1
theorem SameUpToBit0.timestamp_eq (h : SameUpToBit0 e e') : e.timestamp = e'.timestamp := h.2.1
theorem SameUpToBit0.kind_eq (h : SameUpToBit0 e e') : e.kind = e'.kind := h.2.2

theorem AgreeUpToBit0.slot0 (h : AgreeUpToBit0 s s') : SameUpToBit0 s.stage0 s'.stage0 := h.1
theorem AgreeUpToBit0.slot1 (h : AgreeUpToBit0 s s') : SameUpToBit0 s.stage1 s'.stage1 := h.2.1
theorem AgreeUpToBit0.blank (h : AgreeUpToBit0 s s') : blankStages s = blankStages s' := h.2.2

/-- Each view of the state that does not look into the pipeline reads the same. -/
theorem AgreeUpToBit0.view {α : Type} (view : State → α) (hview : ∀ s, view (blankStages s) = view s)
    (h : AgreeUpToBit0 s s') : view s = view s' := by
  rw [← hview s, ← hview s', h.blank]

theorem AgreeUpToBit0.params_eq (h : AgreeUpToBit0 s s') : s.params = s'.params := h.view State.params fun _ => rfl
theorem AgreeUpToBit0.n_eq (h : AgreeUpToBit0 s s') : s.n = s'.n := h.view State.n fun _ => rfl
theorem AgreeUpToBit0.st_eq (h : AgreeUpToBit0 s s') : s.st = s'.st := h.view State.st fun _ => rfl
theorem AgreeUpToBit0.enabled_eq (h : AgreeUpToBit0 s s') : s.enabled = s'.enabled := h.view State.enabled fun _ => rfl
theorem AgreeUpToBit0.mode_eq (h : AgreeUpToBit0 s s') : s.mode = s'.mode := h.view State.mode fun _ => rfl
theorem AgreeUpToBit0.prevTimestamp_eq (h : AgreeUpToBit0 s s') : s.prevTimestamp = s'.prevTimestamp :=
  h.view State.prevTimestamp fun _ => rfl
theorem AgreeUpToBit0.hitCount_eq (h : AgreeUpToBit0 s s') : s.hitCount = s'.hitCount :=
  h.view State.hitCount fun _ => rfl
theorem AgreeUpToBit0.missFlag_eq (h : AgreeUpToBit0 s s') : s.missFlag = s'.missFlag :=
  h.view State.missFlag fun _ => rfl
theorem AgreeUpToBit0.tab_eq (h : AgreeUpToBit0 s s') : s.tab = s'.tab := h.view State.tab fun _ => rfl
theorem AgreeUpToBit0.fault_eq (h : AgreeUpToBit0 s s') : s.fault = s'.fault := h.view State.fault fun _ => rfl
theorem AgreeUpToBit0.modeChanged_eq (h : AgreeUpToBit0 s s') : s.modeChanged = s'.modeChanged :=
  h.view State.modeChanged fun _ => rfl

/-- The fields of a packet take addresses shifted right by one (30_encoding.md R80). -/
theorem AgreeUpToBit0.syncAddress_eq (h : AgreeUpToBit0 s s') : syncAddress s = syncAddress s' := h.slot0.address_eq

theorem AgreeUpToBit0.xorAddress_eq (h : AgreeUpToBit0 s s') : xorAddress s = xorAddress s' :=
  congrArg₂ (· ^^^ ·) h.slot0.address_eq h.slot1.address_eq

theorem AgreeUpToBit0.deltaTimestamp_eq (h : AgreeUpToBit0 s s') : deltaTimestamp s = deltaTimestamp s' := by
  rw [deltaTimestamp, deltaTimestamp, h.slot1.timestamp_eq, h.prevTimestamp_eq]

/-- So does the predictor index (20_memory.md R51). -/
theorem predictorIndex_eq_of_sameUpToBit0 (n : Nat) (h : SameUpToBit0 e e') :
    predictorIndex n e.address = predictorIndex n e'.address := by
  rw [predictorIndex, predictorIndex, h.address_eq]

/-! ## Writes of registers -/

/-- An operation that neither looks into the pipeline nor writes it. -/
theorem AgreeUpToBit0.map (f : State → State) (h0 : ∀ s, (f s).stage0 = s.stage0) (h1 : ∀ s, (f s).stage1 = s.stage1)
    (hf : ∀ s, blankStages (f s) = f (blankStages s)) (h : AgreeUpToBit0 s s') : AgreeUpToBit0 (f s) (f s') := by
  refine ⟨?_, ?_, ?_⟩
  · rw [h0, h0]; exact h.slot0
  · rw [h1, h1]; exact h.slot1
  · exact (hf s).trans ((congrArg f h.blank).trans (hf s').symm)

theorem AgreeUpToBit0.setRet (r : Ret) (h : AgreeUpToBit0 s s') : AgreeUpToBit0 (setRet r s) (setRet r s') :=
  h.map _ (fun _ => rfl) (fun _ => rfl) fun _ => rfl

theorem AgreeUpToBit0.sinkAppend (bs : List Byte) (h : AgreeUpToBit0 s s') :
    AgreeUpToBit0 (sinkAppend bs s) (sinkAppend bs s') :=
  h.map _ (fun _ => rfl) (fun _ => rfl) fun _ => rfl

theorem AgreeUpToBit0.setPrevTimestamp (t : U64) (h : AgreeUpToBit0 s s') :
    AgreeUpToBit0 (setPrevTimestamp t s) (setPrevTimestamp t s') :=
  h.map _ (fun _ => rfl) (fun _ => rfl) fun _ => rfl

theorem AgreeUpToBit0.setHitCount (c : U64) (h : AgreeUpToBit0 s s') :
    AgreeUpToBit0 (setHitCount c s) (setHitCount c s') :=
  h.map _ (fun _ => rfl) (fun _ => rfl) fun _ => rfl

theorem AgreeUpToBit0.setMissFlag (b : Bool) (h : AgreeUpToBit0 s s') :
    AgreeUpToBit0 (setMissFlag b s) (setMissFlag b s') :=
  h.map _ (fun _ => rfl) (fun _ => rfl) fun _ => rfl

theorem AgreeUpToBit0.setTab (t : Table) (h : AgreeUpToBit0 s s') : AgreeUpToBit0 (setTab t s) (setTab t s') :=
  h.map _ (fun _ => rfl) (fun _ => rfl) fun _ => rfl

theorem AgreeUpToBit0.setSegment (st : EncoderState) (h : AgreeUpToBit0 s s') :
    AgreeUpToBit0 (setSegment st s) (setSegment st s') :=
  h.map _ (fun _ => rfl) (fun _ => rfl) fun _ => rfl

theorem AgreeUpToBit0.raise (f : BlockFault) (h : AgreeUpToBit0 s s') : AgreeUpToBit0 (raise f s) (raise f s') :=
  h.map _ (fun _ => rfl) (fun _ => rfl) fun _ => rfl

/-- The pipeline shift. -/
theorem AgreeUpToBit0.shiftIn (h : AgreeUpToBit0 s s') (he : SameUpToBit0 e e') :
    AgreeUpToBit0 (shiftIn e s) (shiftIn e' s') :=
  ⟨he, h.slot0, h.blank⟩

/-! ## Packet generators -/

theorem AgreeUpToBit0.genSync (h : AgreeUpToBit0 s s') : AgreeUpToBit0 (genSync s) (genSync s') := by
  rw [Machine.genSync, Machine.genSync, h.params_eq, h.syncAddress_eq, h.slot0.timestamp_eq]
  exact (h.sinkAppend _).setPrevTimestamp _

theorem AgreeUpToBit0.genDirect (k : DirectKind) (h : AgreeUpToBit0 s s') :
    AgreeUpToBit0 (genDirect k s) (genDirect k s') := by
  rw [Machine.genDirect, Machine.genDirect, h.params_eq, h.deltaTimestamp_eq, h.slot1.timestamp_eq]
  exact (h.sinkAppend _).setPrevTimestamp _

theorem AgreeUpToBit0.genUJ (h : AgreeUpToBit0 s s') : AgreeUpToBit0 (genUJ s) (genUJ s') := by
  rw [Machine.genUJ, Machine.genUJ, h.params_eq, h.xorAddress_eq, h.deltaTimestamp_eq, h.slot1.timestamp_eq]
  exact (h.sinkAppend _).setPrevTimestamp _

theorem AgreeUpToBit0.genTrap (r : TrapReason) (h : AgreeUpToBit0 s s') :
    AgreeUpToBit0 (genTrap r s) (genTrap r s') := by
  rw [Machine.genTrap, Machine.genTrap, h.params_eq, h.xorAddress_eq, h.deltaTimestamp_eq, h.slot1.timestamp_eq]
  exact (h.sinkAppend _).setPrevTimestamp _

theorem AgreeUpToBit0.emitHit (h : AgreeUpToBit0 s s') : AgreeUpToBit0 (emitHit s) (emitHit s') := by
  rw [Machine.emitHit, Machine.emitHit, h.params_eq, h.hitCount_eq]
  exact (h.sinkAppend _).setHitCount _

/-- A check of the same condition. -/
theorem AgreeUpToBit0.asserting {f : BlockFault} {b : Bool} {act : State → State}
    (hact : AgreeUpToBit0 (act s) (act s')) (h : AgreeUpToBit0 s s') :
    AgreeUpToBit0 (asserting f b act s) (asserting f b act s') := by
  rw [Machine.asserting, Machine.asserting, h.params_eq]
  split
  · exact hact
  · exact h.raise f

theorem AgreeUpToBit0.genHit (h : AgreeUpToBit0 s s') : AgreeUpToBit0 (genHit s) (genHit s') := by
  have hinv : hitInvariant s = hitInvariant s' := by rw [hitInvariant, hitInvariant, h.slot1.kind_eq, h.missFlag_eq]
  rw [Machine.genHit, Machine.genHit, hinv]
  exact h.emitHit.asserting h

theorem AgreeUpToBit0.genMiss (h : AgreeUpToBit0 s s') : AgreeUpToBit0 (genMiss s) (genMiss s') := by
  have hinv : missInvariant s = missInvariant s' := by rw [missInvariant, missInvariant, h.slot1.kind_eq, h.hitCount_eq]
  rw [Machine.genMiss, Machine.genMiss, hinv]
  exact (h.genDirect .miss).asserting h

/-! ## Data steps -/

theorem AgreeUpToBit0.jumpTrapDispatch (h : AgreeUpToBit0 s s') :
    AgreeUpToBit0 (jumpTrapDispatch s) (jumpTrapDispatch s') := by
  rw [Machine.jumpTrapDispatch, Machine.jumpTrapDispatch, h.slot1.kind_eq]
  cases s'.stage1.kind with
  | none => exact h
  | branchTaken => exact h
  | branchNotTaken => exact h
  | jumpInferable => exact h.genDirect .ij
  | jumpUninferable => exact h.genUJ
  | exception => exact h.genTrap .exception
  | interrupt => exact h.genTrap .interrupt
  | trapReturn => exact h.genTrap .trapReturn

theorem AgreeUpToBit0.targetDataStep (h : AgreeUpToBit0 s s') :
    AgreeUpToBit0 (targetDataStep s) (targetDataStep s') := by
  rw [Machine.targetDataStep, Machine.targetDataStep, h.slot1.kind_eq]
  cases s'.stage1.kind with
  | none => exact h
  | branchTaken => exact h.genDirect .tb
  | branchNotTaken => exact h.genDirect .nt
  | jumpInferable => exact h.genDirect .ij
  | jumpUninferable => exact h.genUJ
  | exception => exact h.genTrap .exception
  | interrupt => exact h.genTrap .interrupt
  | trapReturn => exact h.genTrap .trapReturn

theorem AgreeUpToBit0.cellAt_eq (h : AgreeUpToBit0 s s') (he : SameUpToBit0 e e') :
    cellAt e.address s = cellAt e'.address s' := by
  rw [cellAt, cellAt, h.tab_eq, h.n_eq, predictorIndex_eq_of_sameUpToBit0 _ he]

theorem AgreeUpToBit0.predictHits_eq (taken : Bool) (h : AgreeUpToBit0 s s') (he : SameUpToBit0 e e') :
    predictHits e.address taken s = predictHits e'.address taken s' := by
  rw [predictHits, predictHits, h.cellAt_eq he]

theorem AgreeUpToBit0.predictUpdate (taken : Bool) (h : AgreeUpToBit0 s s') (he : SameUpToBit0 e e') :
    AgreeUpToBit0 (predictUpdate e.address taken s) (predictUpdate e'.address taken s') := by
  rw [Machine.predictUpdate, Machine.predictUpdate, h.cellAt_eq he, h.tab_eq, h.n_eq,
    predictorIndex_eq_of_sameUpToBit0 _ he]
  exact h.setTab _

theorem AgreeUpToBit0.predictStage (h : AgreeUpToBit0 s s') : AgreeUpToBit0 (predictStage s) (predictStage s') := by
  have hupdate := h.predictUpdate (s'.stage0.kind == .branchTaken) h.slot0
  rw [Machine.predictStage, Machine.predictStage, h.slot0.kind_eq]
  dsimp only
  rw [h.predictHits_eq _ h.slot0]
  split
  · split
    · rw [hupdate.hitCount_eq]; exact hupdate.setHitCount _
    · exact hupdate
  · exact h

theorem AgreeUpToBit0.pendingMiss_eq (h : AgreeUpToBit0 s s') : pendingMiss s = pendingMiss s' := by
  rw [pendingMiss, pendingMiss, h.slot0.kind_eq, h.predictHits_eq _ h.slot0]

theorem AgreeUpToBit0.forceFlush_eq (h : AgreeUpToBit0 s s') : forceFlush s = forceFlush s' := by
  rw [forceFlush, forceFlush, h.pendingMiss_eq, h.slot0.kind_eq]

theorem AgreeUpToBit0.generateStage (flush : Bool) (h : AgreeUpToBit0 s s') :
    AgreeUpToBit0 (generateStage flush s) (generateStage flush s') := by
  rw [Machine.generateStage, Machine.generateStage, h.hitCount_eq, h.missFlag_eq]
  split
  · exact h.genHit
  · split
    · exact h.genMiss
    · exact h.jumpTrapDispatch

theorem AgreeUpToBit0.commitMissFlag (pending : Bool) (h : AgreeUpToBit0 s s') :
    AgreeUpToBit0 (commitMissFlag pending s) (commitMissFlag pending s') := by
  rw [Machine.commitMissFlag, Machine.commitMissFlag, h.fault_eq]
  split
  · exact h.setMissFlag pending
  · exact h

theorem AgreeUpToBit0.predictionDataStep (h : AgreeUpToBit0 s s') :
    AgreeUpToBit0 (predictionDataStep s) (predictionDataStep s') := by
  rw [Machine.predictionDataStep, Machine.predictionDataStep, h.pendingMiss_eq, h.forceFlush_eq]
  exact (h.predictStage.generateStage _).commitMissFlag _

/-! ## Calls -/

/-- Two calls end in the same way, up to bit 0 of the staged addresses. -/
inductive EndAlike : Result → Result → Prop
  | next {t t' : State} (h : AgreeUpToBit0 t t') : EndAlike (.next t) (.next t')
  | refused (r : Refusal) : EndAlike (.refused r) (.refused r)

theorem AgreeUpToBit0.returns (r : Ret) (h : AgreeUpToBit0 s s') : EndAlike (returns r s) (returns r s') :=
  .next (h.setRet r)

theorem AgreeUpToBit0.dataStep (h : AgreeUpToBit0 s s') : EndAlike (dataStep s) (dataStep s') := by
  rw [Machine.dataStep, Machine.dataStep, h.modeChanged_eq, h.mode_eq]
  split
  · exact .refused _
  · cases s'.mode with
    | target => exact h.targetDataStep.returns _
    | prediction => exact h.predictionDataStep.returns _
    | history => exact .refused _
    | reserved => exact .refused _

theorem AgreeUpToBit0.segmentStep (h : AgreeUpToBit0 s s') : EndAlike (segmentStep s) (segmentStep s') := by
  rw [Machine.segmentStep, Machine.segmentStep, h.st_eq, h.enabled_eq]
  split
  · exact h.returns _
  · exact (h.genSync.setSegment _).returns _
  · exact h.dataStep
  · exact (h.genSync.setSegment _).returns _

theorem AgreeUpToBit0.pushEvent (h : AgreeUpToBit0 s s') (he : SameUpToBit0 e e') :
    EndAlike (pushEvent e s) (pushEvent e' s') := by
  rw [Machine.pushEvent, Machine.pushEvent, accepting, accepting, h.fault_eq]
  split
  · exact (h.shiftIn he).segmentStep
  · exact .refused _

/-- Settles O52: every operand taken from an address drops its bit 0, so every operation of a call keeps the relation. -/
theorem addressBit0IsUnobservable : Obligations.AddressBit0IsUnobservable := by
  intro e e' s s' h he
  have hend : EndAlike (exec (.pushIngress e) s) (exec (.pushIngress e') s') := h.pushEvent he
  generalize exec (.pushIngress e) s = r, exec (.pushIngress e') s' = r' at hend ⊢
  cases hend with
  | next h => exact h
  | refused r => rfl

end Sys2Proof.Machine
end

section
/-! SUPPORT. The register view TE_CTRL (10_state.md R29): the bits it reads, the bits a write looks at. -/

namespace Sys2Proof.Machine

theorem modeOfCode_modeCode (m : BranchMode) : modeOfCode (modeCode m) = m := by
  cases m <;> rfl

/-- The view as eight values: `enabled` and the mode settle it. -/
theorem teCtrlRead_bits (s : State) :
    (teCtrlRead s).getLsbD 0 = s.enabled ∧ (teCtrlRead s).extractLsb' 1 2 = modeCode s.mode ∧
      (teCtrlRead s).toNat < 8 := by
  unfold teCtrlRead
  cases s.enabled <;> cases s.mode <;> decide

/-! ## The bits a write looks at -/

theorem getLsbD_of_low4 {v : U64} {i : Nat} (hi : i < 4) : v.getLsbD i = (v.extractLsb' 0 4).getLsbD i := by
  simp [hi]

theorem extractLsb'_of_low4 {v : U64} {i k : Nat} (hik : i + k ≤ 4) :
    v.extractLsb' i k = (v.extractLsb' 0 4).extractLsb' i k := by
  ext j hj
  have hj4 : i + j < 4 := by omega
  simp [hj4]

/-- Bits [63:4] are ignored. -/
theorem teCtrlStore_of_low4 {v v' : U64} (s : State) (h : v.extractLsb' 0 4 = v'.extractLsb' 0 4) :
    teCtrlStore v s = teCtrlStore v' s := by
  have hbit : ∀ i < 4, v.getLsbD i = v'.getLsbD i := fun i hi => by rw [getLsbD_of_low4 hi, h, ← getLsbD_of_low4 hi]
  have hfield : ∀ i k, i + k ≤ 4 → v.extractLsb' i k = v'.extractLsb' i k := fun i k hik => by
    rw [extractLsb'_of_low4 hik, h, ← extractLsb'_of_low4 hik]
  rw [teCtrlStore, teCtrlStore, hbit 3 (by decide), hbit 0 (by decide), hfield 0 3 (by decide), hfield 1 2 (by decide)]

/-! ## The writes -/

theorem teCtrlWrite_of_store_eq {v v' : U64} (h : ∀ s, teCtrlStore v s = teCtrlStore v' s) (s : State) :
    teCtrlWrite v s = teCtrlWrite v' s := by
  simp only [teCtrlWrite, h]

theorem teCtrlWrite_of_not_faulted {s : State} (v : U64) (hf : s.fault = none) :
    teCtrlWrite v s = .next (setRet .unit (teCtrlStore v s)) :=
  accepting_none hf

/-- A write of bit 3 alone is `reset()`, on a faulted block too. -/
theorem teCtrlWrite_strobe_alone (s : State) {v : U64} (h : v.extractLsb' 0 4 = 0b1000#4) :
    teCtrlWrite v s = exec .reset s := by
  have h3 : v.getLsbD 3 = true := by rw [getLsbD_of_low4 (by decide), h]; rfl
  have h0 : v.extractLsb' 0 3 = 0#3 := by rw [extractLsb'_of_low4 (by decide), h]; rfl
  simp only [teCtrlWrite, teCtrlStore_reset _ h3 h0, exec_reset]

/-- A write with bit 3 clear is `setEnabled` and `setMode`. -/
theorem teCtrlWrite_clear {s : State} {m : BranchMode} {b : Bool} {v : U64} (hf : s.fault = none)
    (hb : v.getLsbD 0 = b) (hm : v.extractLsb' 1 2 = modeCode m) (h3 : v.getLsbD 3 = false) :
    teCtrlWrite v s = .next (setRet .unit (writeMode m (writeEnabled b s))) := by
  rw [teCtrlWrite_of_not_faulted v hf, teCtrlStore_clear s h3, hb, hm, modeOfCode_modeCode]

/-- Outside an open segment, or with the mode as it was, no change of mode is noted (log 14). -/
theorem writeMode_unnoted {m : BranchMode} {s : State} (h : s.st = .idle ∨ m = s.mode) :
    writeMode m s = { s with mode := m } := by
  have hsame : (s.st == .data && s.mode != m) = false := by
    rcases h with h | h <;> simp [h]
  rw [writeMode, hsame, Bool.or_false]

theorem writeMode_noted {m : BranchMode} {s : State} (hst : s.st = .data) (hm : m ≠ s.mode) :
    writeMode m s = { s with mode := m, modeChanged := true } := by
  have hchange : (s.st == .data && s.mode != m) = true := by simp [hst, hm.symm]
  rw [writeMode, hchange, Bool.or_true]

/-- Settles O28: a write either keeps bit 3 clear and writes the two fields, or runs `reset()` first. -/
theorem registerViewOfControlFields : Obligations.RegisterViewOfControlFields := by
  refine ⟨teCtrlRead_bits, ?strobeClear, fun s v => teCtrlWrite_strobe_alone s, ?strobeWithLowBits, ?ignored, ?faulted,
    modeOfCode_modeCode⟩
  case strobeClear =>
    intro s m b v hf hb hm h3
    rw [teCtrlWrite_clear hf hb hm h3]
    constructor
    · intro h
      rw [writeMode_unnoted (s := writeEnabled b s) h]; rfl
    · intro hst hne
      rw [writeMode_noted (s := writeEnabled b s) hst hne]; rfl
  case strobeWithLowBits =>
    intro s v hf h3 h0
    refine ⟨(Config.teCtrlStrobeWrite (v.extractLsb' 0 3) s.enabled s.mode).1,
      (Config.teCtrlStrobeWrite (v.extractLsb' 0 3) s.enabled s.mode).2, _, exec_reset_next hf, ?_⟩
    rw [teCtrlWrite_of_not_faulted v hf, teCtrlStore_strobe s h3 h0]; rfl
  case ignored =>
    intro s v v' h
    exact teCtrlWrite_of_store_eq (fun s => teCtrlStore_of_low4 s h) s
  case faulted =>
    intro s f v hf
    exact accepting_some hf

end Sys2Proof.Machine
end

section
/-! SUPPORT. The predictor's cells (20_memory.md R51): the index as an expression of the address, and two addresses with the
same index. -/

namespace Sys2Proof.Machine

theorem predictorIndex_eq (n : Nat) (pc : U64) : predictorIndex n pc = pc.toNat / 2 % n := by
  rw [predictorIndex, BitVec.toNat_ushiftRight, Nat.shiftRight_eq_div_pow, pow_one]

/-- For the default number of cells the index is a bit slice of the address. -/
theorem predictorIndex_default (pc : U64) : predictorIndex 1024 pc = (pc.extractLsb' 1 10).toNat := by
  rw [predictorIndex, BitVec.toNat_ushiftRight, BitVec.extractLsb'_toNat]

section Aliased
variable {s : State} {pc pc' : U64} (h : predictorIndex s.n pc = predictorIndex s.n pc')
include h

theorem cellAt_of_predictorIndex_eq : cellAt pc s = cellAt pc' s := by
  rw [cellAt, cellAt, h]

theorem predictHits_of_predictorIndex_eq (taken : Bool) : predictHits pc taken s = predictHits pc' taken s := by
  rw [predictHits, predictHits, cellAt_of_predictorIndex_eq h]

theorem predictUpdate_of_predictorIndex_eq (taken : Bool) : predictUpdate pc taken s = predictUpdate pc' taken s := by
  rw [predictUpdate, predictUpdate, cellAt_of_predictorIndex_eq h, h]

end Aliased

/-- Settles O16: `predict` and `peek` use an address through its index alone. -/
theorem aliasedAddressesShareACell : Obligations.AliasedAddressesShareACell := by
  refine ⟨fun n pc => predictorIndex_lt pc, predictorIndex_default, fun s pc pc' taken h => ?_⟩
  rw [← predictorIndex_eq, ← predictorIndex_eq] at h
  constructor
  · simp only [exec_predictorPredict, accepting, predictHits_of_predictorIndex_eq h,
      predictUpdate_of_predictorIndex_eq h]
  · simp only [exec_predictorPeek, accepting, cellAt_of_predictorIndex_eq h]

end Sys2Proof.Machine
end

section
/-! SUPPORT. The step (20_memory.md R60): one rule for each of the three ways it can go. -/

namespace Sys2Proof.Machine

section Step
variable {s : State} {r : Request} {rs : List Request}

theorem step_of_request {i : Instr} {rest : List Byte} (hs : s.inbox = r :: rs) (hr : readRequest r = .ok i rest) :
    step s = exec i { s with inbox := rs } := by
  simp only [step, hs, hr]

theorem step_of_undecodable {e : DecodeError} (hs : s.inbox = r :: rs) (hr : readRequest r = .bad e) :
    step s = .refused (.undecodable e) := by
  simp only [step, hs, hr]

theorem step_of_no_request (hs : s.inbox = []) : step s = .next s := by
  simp only [step, hs]

end Step

/-- A table word that has an instruction is a request for it. -/
theorem readRequest_of_decodeTableWord {nbits w : Nat} {i : Instr} (h : decodeTableWord nbits w = some i) :
    ∃ rest, readRequest (tableRequest nbits w) = .ok i rest := by
  unfold decodeTableWord at h
  split at h
  · cases h; exact ⟨_, ‹_›⟩
  · cases h

/-- Settles O59: the queue without the word that was put in front of it is the old queue. -/
theorem stepRunsTheNextRequest : Obligations.StepRunsTheNextRequest := by
  refine ⟨fun _ _ _ _ _ => step_of_request, fun _ _ _ _ => step_of_undecodable, fun _ => step_of_no_request,
    fun s nbits w i h => ?_⟩
  obtain ⟨rest, hread⟩ := readRequest_of_decodeTableWord h
  exact step_of_request (s := s.withFetchWord nbits w) rfl hread

end Sys2Proof.Machine
end

section
/-! SUPPORT. The sink (20_memory.md R54, R57): what each generator, a data step, a call and an instruction append to it, and
the length of a packet (30_encoding.md R79). -/

namespace Sys2Proof.Machine

/-! ## The length of a packet -/

/-- An address shifted right by one takes nine bytes at most. -/
theorem varintLength_le_of_lt {v : U64} (h : v.toNat < 2 ^ 63) : varintLength v ≤ 9 := by
  by_cases hv : v = 0
  · rw [hv, varintLength_zero]; omega
  · obtain ⟨j, hlen, -, hle, -⟩ := varintLength_bounds hv
    have hj : j < 63 := (Nat.pow_lt_pow_iff_right (by norm_num : 1 < 2)).1 (lt_of_le_of_lt hle h)
    omega

theorem shortBytes_length_le (p : Params) (fh : FHCode) (v : U64) : (shortBytes p fh v).length ≤ 11 := by
  rcases Nat.lt_or_ge v.toNat 64 with h | h
  · rw [shortBytes_compressed h]; simp
  · have hlen := varintLength_le v
    rw [shortBytes_full h, List.length_cons, encodeVarint_length]
    omega

theorem longBytes_length_le (p : Params) (fh : FHCode) (tt : TTCode) {a : U64} (t : U64) (h : a.toNat < 2 ^ 63) :
    (longBytes p fh tt a t).length ≤ 20 := by
  have ha := varintLength_le_of_lt h
  have ht := varintLength_le t
  rw [longBytes_eq, List.length_cons, List.length_append, encodeVarint_length, encodeVarint_length]
  omega

/-- The longest packet has 20 bytes. -/
theorem encodePacket_length_le (p : Params) {q : Packet} (h : q.wf) : (encodePacket p q).length ≤ 20 := by
  have hshort (fh : FHCode) (v : U64) : (shortBytes p fh v).length ≤ 20 :=
    (shortBytes_length_le p fh v).trans (by norm_num)
  cases q with
  | sync a t => exact longBytes_length_le p _ _ t h
  | uj a d => exact longBytes_length_le p _ _ d h
  | trap r a d => exact longBytes_length_le p _ _ d h
  | tb d => exact hshort _ d
  | nt d => exact hshort _ d
  | ij d => exact hshort _ d
  | hit c => exact hshort _ c
  | miss d => exact hshort _ d

/-! ## The packet of each generator -/

theorem ushiftRight_one_lt (a : U64) : (a >>> 1).toNat < 2 ^ 63 := by
  rw [BitVec.toNat_ushiftRight, Nat.shiftRight_eq_div_pow]
  omega

theorem syncAddress_lt (s : State) : (syncAddress s).toNat < 2 ^ 63 :=
  ushiftRight_one_lt _

theorem xorAddress_lt (s : State) : (xorAddress s).toNat < 2 ^ 63 := by
  rw [xorAddress, BitVec.toNat_xor]
  exact Nat.xor_lt_two_pow (ushiftRight_one_lt _) (ushiftRight_one_lt _)

/-- Between `s` and `t` the bytes of exactly one well-formed packet were appended, one that mode `m` can emit. -/
def AppendsPacket (m : BranchMode) (s t : State) : Prop :=
  ∃ q : Packet, q.wf ∧ q.inMode m ∧ t.sink = s.sink ++ encodePacket s.params q

theorem genSync_appends (m : BranchMode) (s : State) : AppendsPacket m s (genSync s) :=
  ⟨.sync _ _, syncAddress_lt s, trivial, rfl⟩

theorem directPacket_wf (k : DirectKind) (d : U64) : (directPacket k d).wf := by
  cases k <;> trivial

theorem genDirect_appends {m : BranchMode} {k : DirectKind} {s : State}
    (hm : (directPacket k (deltaTimestamp s)).inMode m) : AppendsPacket m s (genDirect k s) :=
  ⟨_, directPacket_wf k _, hm, congrArg State.sink (genDirect_eq k s)⟩

theorem genUJ_appends {m : BranchMode} (s : State) (hm : m = .target ∨ m = .prediction) :
    AppendsPacket m s (genUJ s) :=
  ⟨.uj _ _, xorAddress_lt s, hm, rfl⟩

theorem genTrap_appends {m : BranchMode} (r : TrapReason) (s : State) (hm : m = .target ∨ m = .prediction) :
    AppendsPacket m s (genTrap r s) :=
  ⟨.trap _ _ _, xorAddress_lt s, hm, rfl⟩

theorem emitHit_appends (s : State) : AppendsPacket .prediction s (emitHit s) :=
  ⟨.hit _, trivial, rfl, rfl⟩

/-- Every Direct packet but Miss is one of Target Mode, and Miss is one of Prediction Mode. -/
theorem genDirect_appends_target {k : DirectKind} (s : State) (hk : k ≠ .miss) :
    AppendsPacket .target s (genDirect k s) := by
  cases k with
  | tb => exact genDirect_appends rfl
  | nt => exact genDirect_appends rfl
  | ij => exact genDirect_appends (.inl rfl)
  | miss => exact absurd rfl hk

theorem genMissPacket_appends (s : State) : AppendsPacket .prediction s (genDirect .miss s) :=
  genDirect_appends rfl

/-- Whatever generator ran, some mode can emit its packet. -/
theorem Generated.appends {s u : State} (h : Generated s u) : ∃ m, AppendsPacket m s u := by
  cases h with
  | sync h => exact ⟨.target, h ▸ genSync_appends _ s⟩
  | direct k h =>
    by_cases hk : k = .miss
    · exact ⟨.prediction, h ▸ hk ▸ genMissPacket_appends s⟩
    · exact ⟨.target, h ▸ genDirect_appends_target s hk⟩
  | uj h => exact ⟨.target, h ▸ genUJ_appends s (.inl rfl)⟩
  | trap r h => exact ⟨.target, h ▸ genTrap_appends r s (.inl rfl)⟩

/-! ## Data steps and calls -/

theorem targetDataStep_appends (s : State) :
    (targetDataStep s).sink = s.sink ∨ AppendsPacket .target s (targetDataStep s) := by
  rcases targetDataStep_cases s with h | ⟨k, h, hk⟩ | h | ⟨r, h⟩ <;> rw [h]
  · exact .inl rfl
  · exact .inr (genDirect_appends_target s hk)
  · exact .inr (genUJ_appends s (.inl rfl))
  · exact .inr (genTrap_appends r s (.inl rfl))

theorem jumpTrapDispatch_appends (s : State) :
    (jumpTrapDispatch s).sink = s.sink ∨ AppendsPacket .prediction s (jumpTrapDispatch s) := by
  rcases jumpTrapDispatch_cases s with h | h | h | ⟨r, h⟩ <;> rw [h]
  · exact .inl rfl
  · exact .inr (genDirect_appends (.inr rfl))
  · exact .inr (genUJ_appends s (.inr rfl))
  · exact .inr (genTrap_appends r s (.inr rfl))

/-- The predict sub-stage appends nothing, so what is appended is the packet of the arm that ran. -/
theorem predictionDataStep_appends {s : State} (hf : s.fault = none) :
    (predictionDataStep s).sink = s.sink ∨ AppendsPacket .prediction s (predictionDataStep s) := by
  obtain ⟨tab, c, hp⟩ := exists_predictStage_eq s
  rcases predictionDataStep_cases hf with h | h | h | ⟨f, h⟩ <;> rw [h, hp]
  · exact .inr (emitHit_appends { s with tab := tab, hitCount := c })
  · exact .inr (genMissPacket_appends { s with tab := tab, hitCount := c })
  · exact jumpTrapDispatch_appends { s with tab := tab, hitCount := c }
  · exact .inl rfl

theorem pushEvent_appends {e : IngressEvent} {s t : State} (h : pushEvent e s = .next t) :
    t.sink = s.sink ∨ AppendsPacket s.mode s t := by
  obtain ⟨hf, ⟨-, -, rfl⟩ | ⟨-, -, rfl⟩ | ⟨-, -, rfl⟩ | ⟨-, -, -, hm, rfl⟩ | ⟨-, -, -, hm, rfl⟩⟩ := pushEvent_next h
  · exact .inl rfl
  · exact .inr (genSync_appends s.mode (shiftIn e s))
  · exact .inr (genSync_appends s.mode (shiftIn e s))
  · rw [hm]; exact targetDataStep_appends (shiftIn e s)
  · rw [hm]; exact predictionDataStep_appends (s := shiftIn e s) hf

/-- The event rows and `pushIngress` are one operation (30_encoding.md R97). -/
theorem exec_of_pushedEvent {i : Instr} {e : IngressEvent} (h : pushedEvent i = some e) (s : State) :
    exec i s = pushEvent e s := by
  cases i with
  | pushIngress _ | eventNONE _ _ | eventBT _ _ | eventBNT _ _ | eventIJ _ _ | eventUJ _ _ | eventEXC _ _
  | eventINT _ _ | eventRET _ _ => cases h; rfl
  | _ => cases h

/-- Settles O50: a call runs at most one generator, and that is one of its mode. -/
theorem atMostOnePacketPerCall : Obligations.AtMostOnePacketPerCall := by
  intro i e s t hi h
  exact pushEvent_appends (exec_of_pushedEvent hi s ▸ h)

/-! ## Instructions -/

/-- Every instruction but a construction appends nothing or one packet. -/
theorem exec_appends {i : Instr} {s t : State} (h : exec i s = .next t) (hc : ∀ n, i ≠ .construct n) :
    t.sink = s.sink ∨ ∃ m, AppendsPacket m s t := by
  cases exec_next h with
  | construct n hi => exact absurd hi (hc n)
  | packet u _ _ hg ht => exact ht ▸ .inr hg.appends
  | hit _ _ _ ht => exact ht ▸ .inr ⟨.prediction, emitHit_appends s⟩
  | push _ _ _ hpush => exact (pushEvent_appends hpush).imp_right fun h => ⟨s.mode, h⟩
  | result _ ht => exact ht ▸ .inl rfl
  | reset _ _ ht => exact ht ▸ .inl rfl
  | setEnabled _ _ _ ht => exact ht ▸ .inl rfl
  | setMode _ _ _ ht => exact ht ▸ .inl rfl
  | predictorReset _ _ ht => exact ht ▸ .inl rfl
  | predict _ _ _ _ ht => exact ht ▸ .inl rfl
  | raised _ _ _ ht => exact ht ▸ .inl rfl

/-- Settles O27: what is appended is nothing or one well-formed packet. -/
theorem sinkOnlyGrows : Obligations.SinkOnlyGrows := by
  intro i s t h hc
  rcases exec_appends h hc with hsink | ⟨_, q, hwf, -, hsink⟩
  · exact ⟨[], by rw [hsink, List.append_nil], Nat.zero_le _⟩
  · exact ⟨encodePacket s.params q, hsink, encodePacket_length_le _ hwf⟩

end Sys2Proof.Machine
end

section
/-! SUPPORT. Varints read back (41_codec.md R132, R139): the payload of each byte, the decoder on the bytes from any
index on, and the round trip of a field. -/

namespace Sys2Proof.Machine

/-! ## The payload of a byte -/

/-- The mask of R139 keeps the low seven bits. -/
theorem toNat_and_payloadMask (b : Byte) : (b &&& 0x7F#8).toNat = (b.setWidth 7).toNat := by
  revert b
  decide

theorem varintByte_setWidth (v : U64) (n i : Nat) : (varintByte v n i).setWidth 7 = (v >>> (7 * i)).setWidth 7 := by
  apply BitVec.eq_of_getLsbD_eq
  intro k hk
  rw [BitVec.getLsbD_setWidth, varintByte_getLsbD v n i k hk, BitVec.getLsbD_setWidth, BitVec.getLsbD_ushiftRight]

/-- Byte `i` carries digit `i` of the value in base 128. -/
theorem varintByte_payload (v : U64) (n i : Nat) :
    (varintByte v n i &&& 0x7F#8).toNat = v.toNat / 2 ^ (7 * i) % 128 := by
  rw [toNat_and_payloadMask, varintByte_setWidth, BitVec.toNat_setWidth, BitVec.toNat_ushiftRight,
    Nat.shiftRight_eq_div_pow]

/-! ## The decoder -/

theorem decodeVarintNat_last {b : Byte} (rest : List Byte) (h : b.getLsbD 7 = true) :
    decodeVarintNat (b :: rest) = some ((b &&& 0x7F#8).toNat, rest) := by
  rw [decodeVarintNat, if_pos h]

theorem decodeVarintNat_more {b : Byte} {bytes rest : List Byte} {v : Nat} (h : b.getLsbD 7 = false)
    (hb : decodeVarintNat bytes = some (v, rest)) :
    decodeVarintNat (b :: bytes) = some ((b &&& 0x7F#8).toNat + 128 * v, rest) := by
  rw [decodeVarintNat, if_neg (Bool.eq_false_iff.1 h), hb]

theorem two_pow_seven_mul_succ (i : Nat) : 2 ^ (7 * (i + 1)) = 2 ^ (7 * i) * 128 := by
  rw [Nat.mul_succ, Nat.pow_add]

/-- From byte `i` on, `k + 1` bytes before the end, the decoder reads the value's digits from `i` on. -/
theorem decodeVarintNat_from (v : U64) (rest : List Byte) (k : Nat) : ∀ i, v.toNat < 2 ^ (7 * (i + k + 1)) →
    decodeVarintNat ((List.range' i (k + 1)).map (varintByte v (i + k + 1)) ++ rest) =
      some (v.toNat / 2 ^ (7 * i), rest) := by
  induction k with
  | zero =>
    intro i hv
    have hlast : (varintByte v (i + 0 + 1) i).getLsbD 7 = true := by
      rw [varintByte_getLsbD_seven, decide_eq_true (by omega)]
    have hdigit : v.toNat / 2 ^ (7 * i) < 128 :=
      Nat.div_lt_of_lt_mul (by rwa [← two_pow_seven_mul_succ])
    rw [List.range'_one, List.map_singleton, List.singleton_append, decodeVarintNat_last rest hlast,
      varintByte_payload, Nat.mod_eq_of_lt hdigit]
  | succ k ih =>
    intro i hv
    have hmore : (varintByte v (i + (k + 1) + 1) i).getLsbD 7 = false := by
      rw [varintByte_getLsbD_seven, decide_eq_false (by omega)]
    have hlen : i + (k + 1) + 1 = i + 1 + k + 1 := by omega
    have htail := ih (i + 1) (hlen ▸ hv)
    rw [← hlen] at htail
    rw [List.range'_succ, List.map_cons, List.cons_append, decodeVarintNat_more hmore htail, varintByte_payload]
    rw [two_pow_seven_mul_succ, ← Nat.div_div_eq_div_mul, Nat.mod_add_div]

theorem decodeVarintNat_encodeVarint (v : U64) (rest : List Byte) :
    decodeVarintNat (encodeVarint v ++ rest) = some (v.toNat, rest) := by
  obtain ⟨k, hk⟩ : ∃ k, varintLength v = k + 1 := Nat.exists_eq_add_one.2 (varintLength_pos v)
  have hfrom := decodeVarintNat_from v rest k 0
  rw [Nat.zero_add, ← hk, Nat.mul_zero, pow_zero, Nat.div_one, ← List.range_eq_range'] at hfrom
  exact hfrom (lt_two_pow_varintLength v)

/-- A varint field is read back (41_codec.md R139). -/
theorem decodeVarint_encodeVarint (v : U64) (rest : List Byte) :
    decodeVarint (encodeVarint v ++ rest) = .ok v rest := by
  rw [decodeVarint, decodeVarintNat_encodeVarint]
  simp [v.isLt]

theorem decodeField1_encodeVarint (mk : U64 → Packet) (v : U64) (rest : List Byte) :
    decodeField1 mk (encodeVarint v ++ rest) = .ok (mk v) rest := by
  rw [decodeField1, decodeVarint_encodeVarint]

theorem decodeField2_encodeVarint (mk : U64 → U64 → Packet) (a v : U64) (rest : List Byte) :
    decodeField2 mk (encodeVarint a ++ encodeVarint v ++ rest) = .ok (mk a v) rest := by
  rw [List.append_assoc, decodeField2, decodeVarint_encodeVarint]
  exact decodeField1_encodeVarint (mk a) v rest

end Sys2Proof.Machine
end

section
/-! SUPPORT. The first byte of a packet under distinct codes (30_encoding.md R70 to R78): the row that each header names,
the bytes a packet can begin with, and the statements about single words that follow. -/

namespace Sys2Proof.Machine

/-! ## The codes -/

theorem fhHIT_eq_fhTB {p : Params} (hp : p.wf) : p.fhHIT = p.fhTB := hp.2.2.2.1

theorem fhMISS_eq_fhNT {p : Params} (hp : p.wf) : p.fhMISS = p.fhNT := hp.2.2.2.2

theorem compressedHeaderFor_fhTB (p : Params) : compressedHeaderFor p p.fhTB = p.chTB := if_pos rfl

theorem decodeHeader_chTB (p : Params) (m : BranchMode) (v : SmallValue) :
    decodeHeader p m (encodeCompressed p.chTB v) = branchRow m .tbC .hitC := by
  rw [decodeHeader, encodeCompressed_header, if_pos rfl]

section Headers

variable {p : Params} (hp : p.wf)
include hp

theorem compressedHeaderFor_fhNT : compressedHeaderFor p p.fhNT = p.chNT := by
  obtain ⟨-, hfh, -⟩ := hp
  simp_all [compressedHeaderFor, eq_comm]

theorem compressedHeaderFor_fhIJ : compressedHeaderFor p p.fhIJ = p.chIJ := by
  obtain ⟨-, hfh, -⟩ := hp
  simp_all [compressedHeaderFor, eq_comm]

theorem compressedHeaderFor_fhHIT : compressedHeaderFor p p.fhHIT = p.chTB := by
  rw [fhHIT_eq_fhTB hp, compressedHeaderFor_fhTB]

theorem compressedHeaderFor_fhMISS : compressedHeaderFor p p.fhMISS = p.chNT := by
  rw [fhMISS_eq_fhNT hp, compressedHeaderFor_fhNT hp]

/-! ## Compressed bytes (R71)

The codes are distinct, so every test of the decoder on a header fails but the one of its own code. -/

theorem decodeHeader_chNT (m : BranchMode) (v : SmallValue) :
    decodeHeader p m (encodeCompressed p.chNT v) = branchRow m .ntC .missC := by
  rw [decodeHeader, encodeCompressed_header]
  obtain ⟨hch, -⟩ := hp
  simp_all [eq_comm]

theorem decodeHeader_chIJ (m : BranchMode) (v : SmallValue) :
    decodeHeader p m (encodeCompressed p.chIJ v) = sharedRow m .ijC := by
  rw [decodeHeader, encodeCompressed_header]
  obtain ⟨hch, -⟩ := hp
  simp_all [eq_comm]

/-! ## Full headers (R72) -/

theorem decodeHeader_full (m : BranchMode) (fh : FHCode) (tt : TTCode) :
    decodeHeader p m (encodeFullHeader p.chNA fh tt) = fullHeaderRow p m fh tt := by
  rw [decodeHeader, encodeFullHeader_header, encodeFullHeader_full, encodeFullHeader_trap]
  obtain ⟨hch, -⟩ := hp
  simp_all [eq_comm]

theorem decodeHeader_fhVAL (m : BranchMode) :
    decodeHeader p m (encodeFullHeader p.chNA p.fhVAL ttNone) = .ok .val := by
  rw [decodeHeader_full hp, fullHeaderRow, if_pos rfl]

theorem decodeHeader_fhRES (m : BranchMode) :
    decodeHeader p m (encodeFullHeader p.chNA p.fhRES ttNone) = .ok .res := by
  rw [decodeHeader_full hp, fullHeaderRow]
  obtain ⟨-, hfh, -⟩ := hp
  simp_all [eq_comm]

theorem decodeHeader_fhTRAP (m : BranchMode) (tt : TTCode) :
    decodeHeader p m (encodeFullHeader p.chNA p.fhTRAP tt) = trapRow p m tt := by
  rw [decodeHeader_full hp, fullHeaderRow]
  obtain ⟨-, hfh, -⟩ := hp
  simp_all

/-- A header with no trap type is read by its code alone, which is none of VAL, RES and TRAP (30_encoding.md R75). -/
theorem decodeHeader_plain (m : BranchMode) {fh : FHCode} (h : fh ∈ [p.fhSYNC, p.fhTB, p.fhNT, p.fhIJ, p.fhUJ]) :
    decodeHeader p m (encodeFullHeader p.chNA fh ttNone) = plainRow p m fh := by
  rw [decodeHeader_full hp, fullHeaderRow]
  obtain ⟨-, hfh, -⟩ := hp
  simp only [List.mem_cons, List.not_mem_nil, or_false] at h
  rcases h with rfl | rfl | rfl | rfl | rfl <;> simp_all [eq_comm]

theorem decodeHeader_fhSYNC (m : BranchMode) :
    decodeHeader p m (encodeFullHeader p.chNA p.fhSYNC ttNone) = .ok .sync := by
  rw [decodeHeader_plain hp m (by simp), plainRow, if_pos rfl]

theorem decodeHeader_fhTB (m : BranchMode) :
    decodeHeader p m (encodeFullHeader p.chNA p.fhTB ttNone) = branchRow m .tbF .hitF := by
  rw [decodeHeader_plain hp m (by simp), plainRow]
  obtain ⟨-, hfh, -⟩ := hp
  simp_all

theorem decodeHeader_fhNT (m : BranchMode) :
    decodeHeader p m (encodeFullHeader p.chNA p.fhNT ttNone) = branchRow m .ntF .missF := by
  rw [decodeHeader_plain hp m (by simp), plainRow]
  obtain ⟨-, hfh, -⟩ := hp
  simp_all [eq_comm]

theorem decodeHeader_fhIJ (m : BranchMode) :
    decodeHeader p m (encodeFullHeader p.chNA p.fhIJ ttNone) = sharedRow m .ijF := by
  rw [decodeHeader_plain hp m (by simp), plainRow]
  obtain ⟨-, hfh, -⟩ := hp
  simp_all [eq_comm]

theorem decodeHeader_fhUJ (m : BranchMode) :
    decodeHeader p m (encodeFullHeader p.chNA p.fhUJ ttNone) = sharedRow m .uj := by
  rw [decodeHeader_plain hp m (by simp), plainRow]
  obtain ⟨-, hfh, -⟩ := hp
  simp_all [eq_comm]

end Headers

/-- The row of a Trap packet (30_encoding.md R78). -/
def trapInstr : TrapReason → Instr
  | .exception => .trapE
  | .interrupt => .trapI
  | .trapReturn => .trapR

theorem decodeHeader_trap {p : Params} (hp : p.wf) (m : BranchMode) (r : TrapReason) :
    decodeHeader p m (encodeFullHeader p.chNA p.fhTRAP (trapCode p r)) = sharedRow m (trapInstr r) := by
  rw [decodeHeader_fhTRAP hp, trapRow]
  obtain ⟨-, -, htt, -⟩ := hp
  cases r <;> simp_all [trapCode, trapInstr, Ne.symm]

theorem sharedRow_ok {m : BranchMode} (hm : m = .target ∨ m = .prediction) (i : Instr) : sharedRow m i = .ok i := by
  rcases hm with rfl | rfl <;> rfl

/-! ## Words of the table -/

/-- A packet row is read back when its first byte names it. -/
theorem word_of_header {p : Params} {i : Instr} {m : BranchMode} {b : Byte} (he : encode p i = some [b])
    (hd : decodeHeader p m b = .ok i) (rest : List Byte) :
    ∃ w, encode p i = some w ∧ decodeIn p (.stream m) (w ++ rest) = .ok i rest := by
  refine ⟨[b], he, ?_⟩
  simp only [List.singleton_append, decodeIn, hd]

/-- A packet row that both modes emit. -/
theorem word_of_sharedHeader {p : Params} {i : Instr} {space : WordSpace} {b : Byte} (he : encode p i = some [b])
    (hd : ∀ m, decodeHeader p m b = sharedRow m i) (hs : space = .stream .target ∨ space = .stream .prediction)
    (rest : List Byte) : ∃ w, encode p i = some w ∧ decodeIn p space (w ++ rest) = .ok i rest := by
  rcases hs with rfl | rfl <;> exact word_of_header he (hd _) rest

/-- An event row is read back at the ingress port (30_encoding.md R97). -/
theorem word_of_eventRow (p : Params) (k : EventKind) (a t : U64) {space : WordSpace} (hs : space = .ingress)
    (rest : List Byte) :
    ∃ w, encode p (eventRow k a t) = some w ∧ decodeIn p space (w ++ rest) = .ok (eventRow k a t) rest := by
  have he : encode p (eventRow k a t) = some (encodeEvent k a t) := by cases k <;> rfl
  exact hs ▸ ⟨_, he, decodeEvent_encodeEvent k a t rest⟩

/-- Settles O2, row by row: the header of each packet row under distinct codes, the kind code of each event row. -/
theorem encodedWordDecodesToItsRow : Obligations.EncodedWordDecodesToItsRow := by
  intro p i space rest hp hs
  cases i with
  | sync => obtain ⟨m, rfl⟩ := hs; exact word_of_header rfl (decodeHeader_fhSYNC hp m) rest
  | val => obtain ⟨m, rfl⟩ := hs; exact word_of_header rfl (decodeHeader_fhVAL hp m) rest
  | res => obtain ⟨m, rfl⟩ := hs; exact word_of_header rfl (decodeHeader_fhRES hp m) rest
  | tbC => subst hs; exact word_of_header rfl (decodeHeader_chTB p .target 0) rest
  | tbF => subst hs; exact word_of_header rfl (decodeHeader_fhTB hp .target) rest
  | ntC => subst hs; exact word_of_header rfl (decodeHeader_chNT hp .target 0) rest
  | ntF => subst hs; exact word_of_header rfl (decodeHeader_fhNT hp .target) rest
  | hitC =>
    subst hs
    exact word_of_header rfl (compressedHeaderFor_fhHIT hp ▸ decodeHeader_chTB p .prediction 0) rest
  | hitF => subst hs; exact word_of_header rfl (fhHIT_eq_fhTB hp ▸ decodeHeader_fhTB hp .prediction) rest
  | missC =>
    subst hs
    exact word_of_header rfl (compressedHeaderFor_fhMISS hp ▸ decodeHeader_chNT hp .prediction 0) rest
  | missF => subst hs; exact word_of_header rfl (fhMISS_eq_fhNT hp ▸ decodeHeader_fhNT hp .prediction) rest
  | ijC => exact word_of_sharedHeader rfl (decodeHeader_chIJ hp · 0) hs rest
  | ijF => exact word_of_sharedHeader rfl (decodeHeader_fhIJ hp) hs rest
  | uj => exact word_of_sharedHeader rfl (decodeHeader_fhUJ hp) hs rest
  | trapE => exact word_of_sharedHeader rfl (decodeHeader_trap hp · .exception) hs rest
  | trapI => exact word_of_sharedHeader rfl (decodeHeader_trap hp · .interrupt) hs rest
  | trapR => exact word_of_sharedHeader rfl (decodeHeader_trap hp · .trapReturn) hs rest
  | eventNONE a t => exact word_of_eventRow p .none a t hs rest
  | eventBT a t => exact word_of_eventRow p .branchTaken a t hs rest
  | eventBNT a t => exact word_of_eventRow p .branchNotTaken a t hs rest
  | eventIJ a t => exact word_of_eventRow p .jumpInferable a t hs rest
  | eventUJ a t => exact word_of_eventRow p .jumpUninferable a t hs rest
  | eventEXC a t => exact word_of_eventRow p .exception a t hs rest
  | eventINT a t => exact word_of_eventRow p .interrupt a t hs rest
  | eventRET a t => exact word_of_eventRow p .trapReturn a t hs rest
  | _ => cases hs

/-- Settles O1: each byte is written out from its fields, so it reads as its row; the event is `encodeEvent`'s. -/
theorem writtenOutWordsDecode : Obligations.WrittenOutWordsDecode := fun rest =>
  ⟨rfl, rfl, rfl, rfl, rfl, rfl, rfl, rfl, rfl, rfl, decodeEvent_encodeEvent .jumpUninferable 0x102 3 rest⟩

/-! ## What a packet can begin with -/

/-- The full headers of the packets that have a compressed form (30_encoding.md R81). -/
def shortHeaders (p : Params) : List FHCode := [p.fhTB, p.fhNT, p.fhIJ, p.fhHIT, p.fhMISS]

/-- The first bytes of packets (30_encoding.md R78): a compressed byte, a full header without a trap type, or a Trap
header with one of the three. -/
inductive FirstByte (p : Params) : Byte → Prop
  | compressed {fh : FHCode} (h : fh ∈ shortHeaders p) (v : SmallValue) :
      FirstByte p (encodeCompressed (compressedHeaderFor p fh) v)
  | full {fh : FHCode} (h : fh ∈ p.fhSYNC :: p.fhUJ :: shortHeaders p) :
      FirstByte p (encodeFullHeader p.chNA fh ttNone)
  | trap (r : TrapReason) : FirstByte p (encodeFullHeader p.chNA p.fhTRAP (trapCode p r))

theorem shortBytes_firstByte {p : Params} {fh : FHCode} (h : fh ∈ shortHeaders p) (v : U64) :
    ∃ b rest, shortBytes p fh v = b :: rest ∧ FirstByte p b := by
  rcases Nat.lt_or_ge v.toNat 64 with hv | hv
  · exact ⟨_, _, shortBytes_compressed hv, .compressed h _⟩
  · exact ⟨_, _, shortBytes_full hv, .full (List.mem_cons_of_mem _ (List.mem_cons_of_mem _ h))⟩

theorem encodePacket_firstByte (p : Params) (q : Packet) : ∃ b rest, encodePacket p q = b :: rest ∧ FirstByte p b := by
  cases q with
  | sync a t => exact ⟨_, _, longBytes_eq .., .full (by simp)⟩
  | uj a d => exact ⟨_, _, longBytes_eq .., .full (by simp)⟩
  | trap r a d => exact ⟨_, _, longBytes_eq .., .trap r⟩
  | tb d | nt d | ij d | hit d | miss d => exact shortBytes_firstByte (by simp [shortHeaders, directHeader]) d

/-- Settles O11: at the default codes no compressed byte has the mark 0b10, and the full headers are the eight bytes. -/
theorem firstBytesNeverEmitted : Obligations.FirstBytesNeverEmitted := by
  intro q
  obtain ⟨b, rest, hq, hb⟩ := encodePacket_firstByte defaultParams q
  refine ⟨b, rest, hq, fun hmark => ?_⟩
  cases hb with
  | compressed h v =>
    have hne : ∀ fh ∈ shortHeaders defaultParams, compressedHeaderFor defaultParams fh ≠ 0b10#2 := by decide
    exact absurd ((encodeCompressed_header _ v).symm.trans hmark) (hne _ h)
  | full h =>
    have hfull : ∀ fh ∈ defaultParams.fhSYNC :: defaultParams.fhUJ :: shortHeaders defaultParams,
        encodeFullHeader defaultParams.chNA fh ttNone ∈ [0x02#8, 0x06#8, 0x0A#8, 0x0E#8, 0x16#8] := by decide
    exact List.mem_append_left [0x32#8, 0x52#8, 0x92#8] (hfull _ h)
  | trap r => cases r <;> decide

/-- A compressed byte does not bear the mark of a full header (30_encoding.md R74). -/
theorem compressedHeaderFor_ne_chNA {p : Params} (hp : p.wf) {fh : FHCode} (h : fh ∈ shortHeaders p) :
    compressedHeaderFor p fh ≠ p.chNA := by
  have hch : compressedHeaderFor p fh = p.chTB ∨ compressedHeaderFor p fh = p.chNT ∨
      compressedHeaderFor p fh = p.chIJ := by
    simp only [shortHeaders, fhHIT_eq_fhTB hp, fhMISS_eq_fhNT hp, List.mem_cons, List.not_mem_nil, or_false] at h
    rcases h with rfl | rfl | rfl | rfl | rfl <;>
      simp [compressedHeaderFor_fhTB, compressedHeaderFor_fhNT hp, compressedHeaderFor_fhIJ hp]
  obtain ⟨hnodup, -⟩ := hp
  rcases hch with hch | hch | hch <;> simp_all [eq_comm]

/-- No packet's full header is one of the two reserved ones (30_encoding.md R90). -/
theorem fullHeader_not_reserved {p : Params} (hp : p.wf) {fh : FHCode}
    (h : fh ∈ p.fhTRAP :: p.fhSYNC :: p.fhUJ :: shortHeaders p) : fh ≠ p.fhVAL ∧ fh ≠ p.fhRES := by
  simp only [shortHeaders, fhHIT_eq_fhTB hp, fhMISS_eq_fhNT hp, List.mem_cons, List.not_mem_nil, or_false] at h
  obtain ⟨-, hfh, -⟩ := hp
  rcases h with rfl | rfl | rfl | rfl | rfl | rfl | rfl | rfl <;> simp_all

/-- Settles O14: both rows are refused, and a packet's first byte is compressed or bears another full header. -/
theorem reservedHeadersHaveNoMeaning : Obligations.ReservedHeadersHaveNoMeaning := by
  refine ⟨fun s => ⟨exec_val s, exec_res s⟩, fun p q hp => ?_⟩
  obtain ⟨b, rest, hq, hb⟩ := encodePacket_firstByte p q
  refine ⟨b, rest, hq, fun hmark => ?_⟩
  cases hb with
  | compressed h v =>
    exact absurd ((encodeCompressed_header _ v).symm.trans hmark) (compressedHeaderFor_ne_chNA hp h)
  | full h =>
    rw [encodeFullHeader_full]
    exact fullHeader_not_reserved hp (List.mem_cons_of_mem _ h)
  | trap r =>
    rw [encodeFullHeader_full]
    exact fullHeader_not_reserved hp List.mem_cons_self

end Sys2Proof.Machine
end

section
/-! SUPPORT. Whole packets and streams read back (30_encoding.md R82, R86; 41_codec.md R139), and the length of a packet
on both sides of 64 (R79). -/

namespace Sys2Proof.Machine

/-! ## One packet -/

/-- Six bits hold a value below 64 (30_encoding.md R71). -/
theorem smallField_encodeCompressed (ch : CHCode) {v : U64} (h : v.toNat < 64) :
    smallField (encodeCompressed ch (v.setWidth 6)) = v := by
  apply BitVec.eq_of_toNat_eq
  rw [smallField, encodeCompressed_value, BitVec.toNat_setWidth, BitVec.toNat_setWidth]
  omega

section Packet

variable {p : Params} {m : BranchMode} {fh : FHCode}

/-- A Direct or Hit packet is read back in both its forms: `rowC` and `rowF` are the rows of the two. -/
theorem decodePacket_shortBytes {ch : CHCode} {rowC rowF : Instr} {mk : U64 → Packet}
    (hch : compressedHeaderFor p fh = ch)
    (hC : ∀ v, decodeHeader p m (encodeCompressed ch v) = .ok rowC)
    (hF : decodeHeader p m (encodeFullHeader p.chNA fh ttNone) = .ok rowF)
    (hmkC : ∀ b rest, decodeFields rowC b rest = .ok (mk (smallField b)) rest)
    (hmkF : ∀ b rest, decodeFields rowF b rest = decodeField1 mk rest) (v : U64) (rest : List Byte) :
    decodePacket p m (shortBytes p fh v ++ rest) = .ok (mk v) rest := by
  rcases Nat.lt_or_ge v.toNat 64 with hv | hv
  · rw [shortBytes_compressed hv, hch, List.singleton_append, decodePacket, hC]
    exact (hmkC _ _).trans (by rw [smallField_encodeCompressed ch hv])
  · rw [shortBytes_full hv, List.cons_append, decodePacket, hF]
    exact (hmkF _ _).trans (decodeField1_encodeVarint mk v rest)

/-- A Sync, UJ or Trap packet is read back: `row` is the row of its header. -/
theorem decodePacket_longBytes {tt : TTCode} {row : Instr} {mk : U64 → U64 → Packet}
    (hF : decodeHeader p m (encodeFullHeader p.chNA fh tt) = .ok row)
    (hmk : ∀ b rest, decodeFields row b rest = decodeField2 mk rest) (a t : U64) (rest : List Byte) :
    decodePacket p m (longBytes p fh tt a t ++ rest) = .ok (mk a t) rest := by
  rw [longBytes_eq, List.cons_append, decodePacket, hF]
  exact (hmk _ _).trans (decodeField2_encodeVarint mk a t rest)

end Packet

theorem decodeFields_trapInstr (r : TrapReason) (b : Byte) (rest : List Byte) :
    decodeFields (trapInstr r) b rest = decodeField2 (.trap r) rest := by
  cases r <;> rfl

/-- Every packet of a mode is read back; that its address has 63 bits is not needed. -/
theorem decodePacket_encodePacket {p : Params} {m : BranchMode} {q : Packet} (hp : p.wf) (hm : q.inMode m)
    (rest : List Byte) : decodePacket p m (encodePacket p q ++ rest) = .ok q rest := by
  cases q with
  | sync a t => exact decodePacket_longBytes (decodeHeader_fhSYNC hp m) (fun _ _ => rfl) a t rest
  | uj a d =>
    exact decodePacket_longBytes ((decodeHeader_fhUJ hp m).trans (sharedRow_ok hm _)) (fun _ _ => rfl) a d rest
  | trap r a d =>
    exact decodePacket_longBytes ((decodeHeader_trap hp m r).trans (sharedRow_ok hm _)) (decodeFields_trapInstr r)
      a d rest
  | ij d =>
    exact decodePacket_shortBytes (compressedHeaderFor_fhIJ hp)
      (fun v => (decodeHeader_chIJ hp m v).trans (sharedRow_ok hm _))
      ((decodeHeader_fhIJ hp m).trans (sharedRow_ok hm _)) (fun _ _ => rfl) (fun _ _ => rfl) d rest
  | tb d =>
    subst hm
    exact decodePacket_shortBytes (compressedHeaderFor_fhTB p) (decodeHeader_chTB p .target)
      (decodeHeader_fhTB hp .target) (fun _ _ => rfl) (fun _ _ => rfl) d rest
  | nt d =>
    subst hm
    exact decodePacket_shortBytes (compressedHeaderFor_fhNT hp) (decodeHeader_chNT hp .target)
      (decodeHeader_fhNT hp .target) (fun _ _ => rfl) (fun _ _ => rfl) d rest
  | hit c =>
    subst hm
    exact decodePacket_shortBytes (compressedHeaderFor_fhHIT hp) (decodeHeader_chTB p .prediction)
      (fhHIT_eq_fhTB hp ▸ decodeHeader_fhTB hp .prediction) (fun _ _ => rfl) (fun _ _ => rfl) c rest
  | miss d =>
    subst hm
    exact decodePacket_shortBytes (compressedHeaderFor_fhMISS hp) (decodeHeader_chNT hp .prediction)
      (fhMISS_eq_fhNT hp ▸ decodeHeader_fhNT hp .prediction) (fun _ _ => rfl) (fun _ _ => rfl) d rest

/-- Settles O12: the header names the packet's row, and each row's fields are read back. -/
theorem encodedPacketDecodes : Obligations.EncodedPacketDecodes :=
  fun _ _ _ rest hp _ hm => decodePacket_encodePacket hp hm rest

/-! ## Streams -/

/-- One packet off the front, then the rest of the stream. -/
theorem decodeStream_cons {p : Params} {m : BranchMode} {k : Nat} {bytes rest rest' : List Byte} {q : Packet}
    {qs : List Packet} (hq : decodePacket p m bytes = .ok q rest) (hqs : decodeStream p m k rest = .ok qs rest') :
    decodeStream p m (k + 1) bytes = .ok (q :: qs) rest' := by
  cases bytes with
  | nil => cases hq
  | cons b bs => simp only [decodeStream, hq, hqs]

/-- Settles O13, by induction on the stream: each packet's bytes say where it ends. -/
theorem encodedStreamDecodes : Obligations.EncodedStreamDecodes := by
  intro p m qs hp hqs
  induction qs with
  | nil => rfl
  | cons q qs ih =>
    obtain ⟨⟨-, hm⟩, htail⟩ := List.forall_mem_cons.1 hqs
    exact decodeStream_cons (decodePacket_encodePacket hp hm _) (ih htail)

/-! ## Lengths -/

theorem shortBytes_length_of_lt (p : Params) (fh : FHCode) {v : U64} (h : v.toNat < 64) :
    (shortBytes p fh v).length = 1 := by
  rw [shortBytes_compressed h, List.length_singleton]

theorem two_le_shortBytes_length (p : Params) (fh : FHCode) {v : U64} (h : 64 ≤ v.toNat) :
    2 ≤ (shortBytes p fh v).length := by
  rw [shortBytes_full h, List.length_cons, encodeVarint_length]
  exact Nat.succ_le_succ (varintLength_pos v)

theorem three_le_longBytes_length (p : Params) (fh : FHCode) (tt : TTCode) (a t : U64) :
    3 ≤ (longBytes p fh tt a t).length := by
  have ha := varintLength_pos a
  have ht := varintLength_pos t
  rw [longBytes_eq, List.length_cons, List.length_append, encodeVarint_length, encodeVarint_length]
  omega

/-- Settles O10: a header byte, and one varint of 1 to 10 bytes, or two of which the first has at most nine. -/
theorem packetLengths : Obligations.PacketLengths := by
  intro p
  have hshort (fh : FHCode) (v : U64) : (v.toNat < 64 → (shortBytes p fh v).length = 1) ∧
      (64 ≤ v.toNat → 2 ≤ (shortBytes p fh v).length ∧ (shortBytes p fh v).length ≤ 11) :=
    ⟨shortBytes_length_of_lt p fh, fun h => ⟨two_le_shortBytes_length p fh h, shortBytes_length_le p fh v⟩⟩
  constructor
  · rintro v q (rfl | rfl | rfl | rfl | rfl) <;> exact hshort _ v
  · rintro a t r q ha (rfl | rfl | rfl) <;>
      exact ⟨three_le_longBytes_length .., longBytes_length_le _ _ _ t ha⟩

end Sys2Proof.Machine
end

section
/-! SUPPORT. The event rows as calls (30_encoding.md R97; 42_encoder_control.md R169), and the two modes without a data
step (30_encoding.md R96). -/

namespace Sys2Proof.Machine

/-! ## A call, by the row of the state table -/

section Call

variable {s : State} (e : IngressEvent) (hf : s.fault = none)
include hf

theorem pushEvent_idle_disabled (hst : s.st = .idle) (hen : s.enabled = false) :
    pushEvent e s = returns .unit (shiftIn e s) := by
  rw [pushEvent, accepting_none hf]
  exact segmentStep_idle_disabled hst hen

theorem pushEvent_idle_enabled (hst : s.st = .idle) (hen : s.enabled = true) :
    pushEvent e s = returns .unit (setSegment .data (genSync (shiftIn e s))) := by
  rw [pushEvent, accepting_none hf]
  exact segmentStep_idle_enabled hst hen

theorem pushEvent_data_enabled (hst : s.st = .data) (hen : s.enabled = true) :
    pushEvent e s = dataStep (shiftIn e s) := by
  rw [pushEvent, accepting_none hf]
  exact segmentStep_data_enabled hst hen

end Call

/-- Settles O37: an event row runs `pushEvent` on its event, and so takes the two Idle rows of the state table. -/
theorem eventRowsPushTheirKind : Obligations.EventRowsPushTheirKind := by
  intro a t s i k hik
  have hpush : exec i s = pushEvent ⟨a, t, k⟩ s := by
    refine exec_of_pushedEvent ?_ s
    simp only [List.mem_cons, Prod.mk.injEq, List.not_mem_nil, or_false] at hik
    rcases hik with ⟨rfl, rfl⟩ | ⟨rfl, rfl⟩ | ⟨rfl, rfl⟩ | ⟨rfl, rfl⟩ | ⟨rfl, rfl⟩ | ⟨rfl, rfl⟩ | ⟨rfl, rfl⟩ |
      ⟨rfl, rfl⟩ <;> rfl
  rw [exec_pushIngress, hpush]
  exact ⟨rfl, pushEvent_idle_disabled _, pushEvent_idle_enabled _⟩

/-! ## HistoryMode and Reserved -/

theorem dataStep_reservedMode {s : State} {m : BranchMode} (hm : m = .history ∨ m = .reserved) (hmode : s.mode = m)
    (hc : s.modeChanged = false) : dataStep s = .refused .reservedMode := by
  rcases hm with rfl | rfl <;> simp [dataStep, hc, hmode]

/-- Settles O48: the call reaches the data step, which has no table for the two modes. -/
theorem reservedModesHaveNoDataStep : Obligations.ReservedModesHaveNoDataStep := by
  rintro e s m hm ⟨hf, hst, hen, hmode, hc⟩
  rw [exec_pushIngress, pushEvent_data_enabled e hf hst hen]
  exact dataStep_reservedMode hm hmode hc

end Sys2Proof.Machine
end

section
/-! SUPPORT. The predictor's operations (40_predictor.md): the outcome table from the counter chains and the direction bit,
and what `predict` writes. -/

namespace Sys2Proof.Machine

/-! ## The counters -/

theorem cellIsTaken_eq (c : Cell) : cellIsTaken c = decide (2 ≤ c.toNat) := by
  revert c
  decide

/-- Each row of the outcome table is the direction bit compared and the counter moved (40_predictor.md R112). -/
theorem predictTable_eq (c : Cell) (taken : Bool) : predictTable c taken = (cellHits taken c, cellToward taken c) := by
  revert c taken
  decide

/-- Settles O17: the two chains compute, and the direction bit is the comparison with 2. -/
theorem counterChains : Obligations.CounterChains := by
  intro s
  refine ⟨rfl, rfl, rfl, rfl, rfl, rfl, rfl, rfl, fun c => ?_⟩
  rw [exec_predictorIsTaken, cellIsTaken_eq, returns_eq]

/-! ## Reads -/

theorem cellAt_eq (pc : U64) (s : State) : cellAt pc s = tabRead s.tab (pc.toNat / 2 % s.n) := by
  rw [cellAt, predictorIndex_eq]

/-- Settles O15: the shift by 1 is the division by 2. -/
theorem predictorIndexIsHalfModN : Obligations.PredictorIndexIsHalfModN := by
  intro pc s
  rw [exec_predictorIndex, predictorIndex_eq, returns_eq]

/-- Settles O19: `peek` answers the selected cell. -/
theorem peekReadsAndChangesNothing : Obligations.PeekReadsAndChangesNothing := by
  intro pc s hf
  rw [exec_predictorPeek, accepting_none hf, cellAt_eq, returns_eq]

/-! ## Writes -/

/-- Settles O20: the table that lists no cell. -/
theorem predictorResetSetsEveryCell : Obligations.PredictorResetSetsEveryCell := by
  intro s hf
  refine ⟨[], ?_, fun i => rfl⟩
  rw [exec_predictorReset, accepting_none hf, returns_eq, setTab]

/-- `predict` moves the selected cell toward the outcome (40_predictor.md R112). -/
theorem cellAt_predictUpdate (pc : U64) (taken : Bool) {s : State} (h : tabWf s.n s.tab = true) :
    cellAt pc (predictUpdate pc taken s) = cellToward taken (cellAt pc s) :=
  tabRead_tabWrite_self h

/-- `predict` leaves every other cell alone. -/
theorem tabRead_predictUpdate_other {pc : U64} (taken : Bool) {s : State} {j : Nat} (hj : j ≠ predictorIndex s.n pc) :
    tabRead (predictUpdate pc taken s).tab j = tabRead s.tab j :=
  tabRead_tabWrite_other _ s.tab hj

/-- Settles O18: the row of the table is what `predictUpdate` writes into the one cell, and `predictHits` answers. -/
theorem predictOutcomeAndFrame : Obligations.PredictOutcomeAndFrame := by
  intro pc taken s hf hwf
  rw [← cellAt_eq, ← predictorIndex_eq, predictTable_eq]
  refine ⟨(predictUpdate pc taken s).tab, ?_, cellAt_predictUpdate pc taken hwf,
    fun j => tabRead_predictUpdate_other taken⟩
  rw [exec_predictorPredict, accepting_none hf, returns_eq, predictHits, predictUpdate, setTab]

end Sys2Proof.Machine
end

section
/-! SUPPORT. The codec's rows (41_codec.md R130 to R138): the highest set bit and the byte count by the value, the bytes of
a varint one by one, the sums that the two header bytes are, and the three byte shapes. -/

namespace Sys2Proof.Machine

/-! ## The highest set bit (R130) -/

theorem mostSignificantBitIndex_zero : mostSignificantBitIndex 0 = -1 := by decide

/-- A value with a set bit has a highest one. -/
theorem mostSignificantBitIndex_of_ne_zero {x : U64} (hx : x ≠ 0) :
    ∃ j : Nat, mostSignificantBitIndex x = j ∧ j < 64 ∧ x.getLsbD j = true ∧ ∀ i, j < i → x.getLsbD i = false := by
  rcases highestBitBelow_cases x 64 with ⟨-, hclear⟩ | ⟨j, hj, hlt, hset, habove⟩
  · exact absurd (BitVec.eq_of_getLsbD_eq fun i hi => by simp [hclear i hi]) hx
  · refine ⟨j, hj, hlt, hset, fun i hi => ?_⟩
    by_cases h64 : i < 64
    · exact habove i hi h64
    · exact BitVec.getLsbD_of_ge x i (Nat.le_of_not_lt h64)

/-- Settles O4: the scan from bit 63 down answers the first set bit it meets, -1 if it meets none. -/
theorem highestSetBitIsFound : Obligations.HighestSetBitIsFound := by
  intro x s
  refine ⟨mostSignificantBitIndex x, ?_, ?_, mostSignificantBitIndex_of_ne_zero⟩
  · rw [exec_codecMostSignificantBitIndex, returns_eq]
  · rintro rfl
    exact mostSignificantBitIndex_zero

/-! ## The byte count (R131) -/

theorem byteCount_neg_one : byteCount (-1) = 1 := by decide

theorem byteCount_mostSignificantBitIndex (v : U64) : byteCount (mostSignificantBitIndex v) = varintLength v := by
  have hpos := varintLength_pos v
  unfold varintLength at hpos ⊢
  omega

/-- A value of more than `k - 1` and at most `k` groups of seven bits takes `k` bytes. -/
theorem varintLength_of_bounds {v : U64} {k : Nat} (hlo : 2 ^ (7 * (k - 1)) ≤ v.toNat) (hhi : v.toNat < 2 ^ (7 * k)) :
    varintLength v = k := by
  have hv : v ≠ 0 := by
    rintro rfl
    exact absurd hlo (Nat.not_le.2 (Nat.two_pow_pos _))
  obtain ⟨j, hlen, -, hle, hlt⟩ := varintLength_bounds hv
  have hlow : 7 * (k - 1) < j + 1 := (Nat.pow_lt_pow_iff_right (by norm_num)).1 (hlo.trans_lt hlt)
  have hhigh : j < 7 * k := (Nat.pow_lt_pow_iff_right (by norm_num)).1 (hle.trans_lt hhi)
  omega

theorem varintLength_of_lt_two_pow_seven {v : U64} (h : v.toNat < 2 ^ 7) : varintLength v = 1 := by
  by_cases hv : v = 0
  · rw [hv, varintLength_zero]
  · have hpos : 0 < v.toNat := Nat.pos_of_ne_zero fun h0 => hv (BitVec.eq_of_toNat_eq h0)
    exact varintLength_of_bounds hpos h

theorem varintLength_of_two_pow_le {v : U64} (h : 2 ^ 63 ≤ v.toNat) : varintLength v = 10 :=
  varintLength_of_bounds h (v.isLt.trans (by norm_num))

/-- Settles O5: the table row by row from the division by 7, the sizes of values from the bounds on the highest bit. -/
theorem byteCountTable : Obligations.ByteCountTable := by
  simp only [Obligations.ByteCountTable, byteCount_mostSignificantBitIndex]
  refine ⟨fun msb s hlo hhi => ?_, fun v h => ?_, fun v k _ hlo hhi => ?_, fun v h => ?_⟩
  · rw [exec_codecByteCount, returns_eq]
    congr
    rcases hlo.eq_or_lt with rfl | hlo
    · exact byteCount_neg_one
    · obtain ⟨j, rfl⟩ := Int.eq_ofNat_of_zero_le hlo
      rw [byteCount_natCast]
      split_ifs <;> omega
  · rw [varintLength_of_lt_two_pow_seven h, Nat.cast_one]
  · rw [varintLength_of_bounds hlo hhi]
  · rw [varintLength_of_two_pow_le h, Nat.cast_ofNat]

/-! ## Varints (R132) -/

theorem encodeVarint_getElem (v : U64) {i : Nat} (h : i < (encodeVarint v).length) :
    (encodeVarint v)[i] = varintByte v (varintLength v) i := by
  simp [encodeVarint]

theorem encodeVarint_getLast (v : U64) (h : encodeVarint v ≠ []) :
    (encodeVarint v).getLast h = varintByte v (varintLength v) (varintLength v - 1) := by
  rw [List.getLast_eq_getElem, encodeVarint_getElem, encodeVarint_length]

theorem encodeVarint_zero : encodeVarint 0 = [0x80#8] := by decide

/-- The last byte is needed: its digit in base 128 is not zero. -/
theorem varintByte_last_payload_ne_zero {v : U64} (hv : v ≠ 0) :
    (varintByte v (varintLength v) (varintLength v - 1)).setWidth 7 ≠ 0#7 := by
  obtain ⟨j, hlen, -, hle, -⟩ := varintLength_bounds hv
  have hfirst : 2 ^ (7 * (varintLength v - 1)) ≤ v.toNat :=
    (Nat.pow_le_pow_right (by norm_num) (by omega)).trans hle
  have hdigit : v.toNat / 2 ^ (7 * (varintLength v - 1)) < 128 := by
    apply Nat.div_lt_of_lt_mul
    rw [← two_pow_seven_mul_succ, Nat.sub_add_cancel (varintLength_pos v)]
    exact lt_two_pow_varintLength v
  have hpos : 0 < v.toNat / 2 ^ (7 * (varintLength v - 1)) := Nat.div_pos hfirst (Nat.two_pow_pos _)
  intro h0
  have hpayload := varintByte_payload v (varintLength v) (varintLength v - 1)
  rw [toNat_and_payloadMask, h0, Nat.mod_eq_of_lt hdigit, BitVec.toNat_zero] at hpayload
  omega

/-- Settles O3: every byte by its payload and its bit 7, the last one by the bounds on the length. -/
theorem varintBytesAndRoundTrip : Obligations.VarintBytesAndRoundTrip := by
  intro v s
  refine ⟨encodeVarint v, ?_, ?_, fun i hi => ⟨?_, ?_⟩, ?_, fun hne hv => ?_, decodeVarint_encodeVarint v⟩
  · rw [exec_codecEncodeVarint, returns_eq]
  · rw [encodeVarint_length, byteCount_mostSignificantBitIndex]
  · rw [encodeVarint_getElem, varintByte_setWidth]
  · rw [encodeVarint_getElem, varintByte_getLsbD_seven, encodeVarint_length, decide_eq_true_iff]
  · rintro rfl
    exact encodeVarint_zero
  · rw [encodeVarint_getLast]
    exact varintByte_last_payload_ne_zero hv

/-! ## Compressible values (R133) -/

/-- Settles O6: six bits hold exactly the values below 64. -/
theorem compressibleBelow64 : Obligations.CompressibleBelow64 := by
  intro d s
  rw [exec_codecIsCompressible, isCompressible_eq, returns_eq]

/-! ## Header bytes (R134, R135) -/

/-- A byte is the sum of its fields, cut as in a compressed byte (30_encoding.md R71). -/
theorem toNat_eq_compressedFields (b : Byte) :
    b.toNat = (b.extractLsb' 0 2).toNat + 2 ^ 2 * (b.extractLsb' 2 6).toNat := by
  simp only [BitVec.extractLsb'_toNat, Nat.shiftRight_eq_div_pow]
  omega

/-- A byte is the sum of its fields, cut as in a full header (30_encoding.md R72). -/
theorem toNat_eq_fullHeaderFields (b : Byte) :
    b.toNat = (b.extractLsb' 0 2).toNat + 2 ^ 2 * (b.extractLsb' 2 3).toNat + 2 ^ 5 * (b.extractLsb' 5 3).toNat := by
  simp only [BitVec.extractLsb'_toNat, Nat.shiftRight_eq_div_pow]
  omega

/-- Settles O7: each header byte is the sum of its fields, and its fields are the operands. -/
theorem headerByteFields : Obligations.HeaderByteFields := by
  refine ⟨fun ch v s => ⟨encodeCompressed ch v, ?_, ?_⟩, fun ch fh tt s => ⟨encodeFullHeader ch fh tt, ?_, ?_⟩⟩
  · rw [exec_codecEncodeCompressed, returns_eq]
  · rw [toNat_eq_compressedFields, encodeCompressed_header, encodeCompressed_value]
  · rw [exec_codecEncodeFullHeader, returns_eq]
  · rw [toNat_eq_fullHeaderFields, encodeFullHeader_header, encodeFullHeader_full, encodeFullHeader_trap]

/-! ## The compressed header of a full header (R136) -/

theorem compressedHeaderFor_other {p : Params} {fh : FHCode} (hTB : fh ≠ p.fhTB) (hNT : fh ≠ p.fhNT)
    (hIJ : fh ≠ p.fhIJ) : compressedHeaderFor p fh = p.chNA := by
  rw [compressedHeaderFor, if_neg hTB, if_neg hNT, if_neg hIJ]

/-- Settles O8: distinct codes let each test reach its own row, and Hit and Miss are the codes of TB and NT. -/
theorem compressedHeaderOfEachKind : Obligations.CompressedHeaderOfEachKind := by
  intro s hp
  simp only [exec_codecCompressedHeaderFor, returns_eq]
  refine ⟨?_, ?_, ?_, ?_, ?_, fun fh hTB hNT hIJ => ?_⟩
  · rw [compressedHeaderFor_fhTB]
  · rw [compressedHeaderFor_fhNT hp]
  · rw [compressedHeaderFor_fhIJ hp]
  · rw [compressedHeaderFor_fhHIT hp]
  · rw [compressedHeaderFor_fhMISS hp]
  · rw [compressedHeaderFor_other hTB hNT hIJ]

/-! ## Packet records (R138) -/

/-- Settles O9: the three cases of `encodePacketRecord`. -/
theorem packetRecordShapes : Obligations.PacketRecordShapes := by
  intro r s
  simp only [exec_codecEncodePacket, returns_eq]
  refine ⟨?_, ?_, ?_⟩
  · rw [encodePacketRecord]
  · rw [encodePacketRecord, ttNone, List.singleton_append]
  · rw [encodePacketRecord, List.append_assoc, List.singleton_append]

end Sys2Proof.Machine
end

section
/-! SUPPORT. Target Mode segments (42_encoder_control.md R174; 43_target_mode.md R191): a data step as the packet that traces
the older event, and a run of calls as the packets of its events. -/

namespace Sys2Proof.Machine

/-! ## One data step -/

/-- The baseline after an event is reported: its timestamp, or the old baseline when no packet reports it
(10_state.md R31). -/
def tracedBaseline (older : IngressEvent) (prev : U64) : U64 :=
  if older.kind = .none then prev else older.timestamp

/-- The Target Mode table, kind by kind, appends the packet that traces the older event (43_target_mode.md R191). -/
theorem targetDataStep_eq (s : State) :
    targetDataStep s = { s with
      sink := s.sink ++ packetBytes s.params (tracedPacket .target s.stage1 s.stage0 s.prevTimestamp)
      prevTimestamp := tracedBaseline s.stage1 s.prevTimestamp } := by
  rw [targetDataStep, tracedPacket, tracedBaseline]
  cases s.stage1.kind with
  | none => rw [if_pos rfl, packetBytes, List.append_nil]
  | branchTaken | branchNotTaken | jumpInferable => exact genDirect_eq _ s
  | jumpUninferable => exact genUJ_eq s
  | exception | interrupt | trapReturn => exact genTrap_eq _ s

/-- The block after a Target Mode call: the event before `e` is reported, and `e` is in `stage0`. -/
def afterTargetCall (e : IngressEvent) (s : State) : State :=
  { s with
    stage1 := s.stage0
    stage0 := e
    sink := s.sink ++ packetBytes s.params (tracedPacket .target s.stage0 e s.prevTimestamp)
    prevTimestamp := tracedBaseline s.stage0 s.prevTimestamp
    ret := .unit }

section Call

variable {s : State} (h : RunsDataStep .target s)
include h

theorem exec_pushIngress_target (e : IngressEvent) : exec (.pushIngress e) s = .next (afterTargetCall e s) := by
  obtain ⟨hf, hst, hen, hmode, hc⟩ := h
  rw [exec_pushIngress, pushEvent_data_enabled e hf hst hen, dataStep_target (s := shiftIn e s) hc hmode,
    targetDataStep_eq]
  rfl

/-- The segment goes on: a Target Mode call writes none of the fields that decide whether the next one runs a data step. -/
theorem runsDataStep_afterTargetCall (e : IngressEvent) : RunsDataStep .target (afterTargetCall e s) := h

end Call

/-! ## The trace of a segment -/

/-- The first event's packet, if it has one, then the trace of the rest from the baseline that it leaves. -/
theorem targetTrace_cons (prev : U64) (older e : IngressEvent) (es : List IngressEvent) :
    targetTrace prev older (e :: es) =
      (tracedPacket .target older e prev).toList ++ targetTrace (tracedBaseline older prev) e es := by
  rw [targetTrace, tracedPacket, tracedBaseline]
  cases older.kind <;> rfl

theorem packetBytes_eq_flatMap (p : Params) (o : Option Packet) : packetBytes p o = o.toList.flatMap (encodePacket p) := by
  cases o with
  | none => rfl
  | some q => exact (List.flatMap_singleton (encodePacket p) q).symm

/-- An event is traced by a packet of the mode, whose address has 63 bits. -/
theorem tracedPacket_wf_inMode {older newer : IngressEvent} {prev : U64} {q : Packet}
    (h : tracedPacket .target older newer prev = some q) : q.wf ∧ q.inMode .target := by
  have hxor : ((newer.address >>> 1) ^^^ (older.address >>> 1)).toNat < 2 ^ 63 := by
    rw [BitVec.toNat_xor]
    exact Nat.xor_lt_two_pow (ushiftRight_one_lt _) (ushiftRight_one_lt _)
  rw [tracedPacket] at h
  cases hk : older.kind <;> rw [hk] at h <;> cases h
  case branchTaken | branchNotTaken => exact ⟨trivial, rfl⟩
  case jumpInferable => exact ⟨trivial, .inl rfl⟩
  case jumpUninferable | exception | interrupt | trapReturn => exact ⟨hxor, .inl rfl⟩

theorem targetTrace_wf_inMode (es : List IngressEvent) : ∀ (prev : U64) (older : IngressEvent),
    ∀ q ∈ targetTrace prev older es, q.wf ∧ q.inMode .target := by
  induction es with
  | nil => intro prev older q hq; cases hq
  | cons e es ih =>
    intro prev older q hq
    rw [targetTrace_cons, List.mem_append, Option.mem_toList] at hq
    rcases hq with hq | hq
    · exact tracedPacket_wf_inMode hq
    · exact ih _ _ q hq

/-! ## A run of calls -/

theorem pushEvents_cons_of_next {e : IngressEvent} {s u : State} (h : exec (.pushIngress e) s = .next u)
    (es : List IngressEvent) : pushEvents (e :: es) s = pushEvents es u := by
  rw [pushEvents, h]

/-- A run of calls in a Target Mode segment, by induction on the events: each call appends its packet and leaves the segment
open for the rest. -/
theorem pushEvents_target (es : List IngressEvent) : ∀ s : State, RunsDataStep .target s →
    ∃ t, pushEvents es s = .next t ∧ RunsDataStep .target t ∧
      t.sink = s.sink ++ (targetTrace s.prevTimestamp s.stage0 es).flatMap (encodePacket s.params) ∧
      t.hitCount = s.hitCount ∧ t.missFlag = s.missFlag ∧ t.tab = s.tab := by
  induction es with
  | nil => exact fun s hs => ⟨s, rfl, hs, (List.append_nil _).symm, rfl, rfl, rfl⟩
  | cons e es ih =>
    intro s hs
    obtain ⟨t, hrun, ht, hsink, hframe⟩ := ih (afterTargetCall e s) (runsDataStep_afterTargetCall hs e)
    refine ⟨t, (pushEvents_cons_of_next (exec_pushIngress_target hs e) es).trans hrun, ht, ?_, hframe⟩
    rw [hsink, targetTrace_cons, List.flatMap_append, ← packetBytes_eq_flatMap, ← List.append_assoc]
    rfl

/-- Settles O58: the run appends the trace's packets, and a stream of Target Mode packets decodes to itself. -/
theorem targetSegmentTracesItsEvents : Obligations.TargetSegmentTracesItsEvents := by
  rintro es s qs hs hp rfl
  obtain ⟨t, hrun, ht, hsink, hframe⟩ := pushEvents_target es s hs
  exact ⟨t, _, hrun, ht, hsink, rfl, encodedStreamDecodes s.params .target _ hp (targetTrace_wf_inMode es _ _), hframe⟩

end Sys2Proof.Machine
end

section
/-! SUPPORT. The control operations and the state table (42_encoder_control.md R160 to R171): construction, `reset()`, the
control fields, the Sync generator, the rows of a call, and the note of a mode changed inside a segment (R166). -/

namespace Sys2Proof.Machine

/-! ## Construction, reset and the control fields -/

/-- Settles O21: each value is the one `State.constructed` writes; the table lists no cell. -/
theorem constructMakesAFreshBlock : Obligations.ConstructMakesAFreshBlock := by
  intro n s hn
  refine ⟨State.constructed s.params n s.inbox, by rw [exec_construct, if_neg hn], ?_⟩
  exact ⟨rfl, rfl, rfl, rfl, rfl, rfl, rfl, rfl, rfl, rfl, rfl, fun _ => rfl, rfl, rfl, rfl, rfl⟩

/-- Settles O23: `resetBlock` with the table that lists no cell. -/
theorem resetEffects : Obligations.ResetEffects :=
  fun _ hf => ⟨[], fun _ => rfl, exec_reset_next hf⟩

section Operations

variable {s : State} (hf : s.fault = none)
include hf

theorem exec_setEnabled_next (b : Bool) : exec (.setEnabled b) s = .next (setRet .unit (writeEnabled b s)) := by
  rw [exec_setEnabled, accepting_none hf]; rfl

theorem exec_setMode_next (m : BranchMode) : exec (.setMode m) s = .next (setRet .unit (writeMode m s)) := by
  rw [exec_setMode, accepting_none hf]; rfl

end Operations

/-- Settles O25: the getters answer the field, and whether a write of the mode is noted is `writeMode`'s two cases. -/
theorem controlFieldAccess : Obligations.ControlFieldAccess := by
  intro s hf
  refine ⟨exec_setEnabled_next hf, ?_, ?_, fun m hm => ?_, fun m hst hm => ?_⟩
  · rw [exec_getEnabled, accepting_none hf, returns_eq]
  · rw [exec_getMode, accepting_none hf, returns_eq]
  · rw [exec_setMode_next hf, writeMode_unnoted hm, setRet]
  · rw [exec_setMode_next hf, writeMode_noted hst hm, setRet]

/-! ## The Sync generator -/

/-- Settles O29: the Sync packet is its header and two varints (30_encoding.md R78). -/
theorem syncRowResult : Obligations.SyncRowResult := by
  intro s hf
  rw [exec_sync, accepting_none hf, genSync, longBytes_eq, List.append_assoc, List.singleton_append]
  rfl

/-! ## The rows of a call -/

/-- The block after a call that opens or closes a segment: `st` is the state after (42_encoder_control.md R169, R171). -/
def afterSyncCall (e : IngressEvent) (st : EncoderState) (s : State) : State :=
  { s with
    stage1 := s.stage0
    stage0 := e
    st := st
    modeChanged := false
    sink := s.sink ++ encodePacket s.params (.sync (e.address >>> 1) e.timestamp)
    prevTimestamp := e.timestamp
    ret := .unit }

theorem returns_setSegment_genSync (e : IngressEvent) (st : EncoderState) (s : State) :
    returns .unit (setSegment st (genSync (shiftIn e s))) = .next (afterSyncCall e st s) := by
  rw [genSync_eq]; rfl

section SyncCall

variable {s : State} (e : IngressEvent) (hf : s.fault = none)
include hf

theorem exec_pushIngress_opens (hst : s.st = .idle) (hen : s.enabled = true) :
    exec (.pushIngress e) s = .next (afterSyncCall e .data s) := by
  rw [exec_pushIngress, pushEvent_idle_enabled e hf hst hen, returns_setSegment_genSync]

theorem exec_pushIngress_closes (hst : s.st = .data) (hen : s.enabled = false) :
    exec (.pushIngress e) s = .next (afterSyncCall e .idle s) := by
  rw [exec_pushIngress, pushEvent, accepting_none hf, ← returns_setSegment_genSync]
  exact segmentStep_data_disabled hst hen

end SyncCall

/-- A data step does not close the segment (42_encoder_control.md R169). -/
theorem dataStep_st {s t : State} (hf : s.fault = none) (h : dataStep s = .next t) : t.st = s.st := by
  obtain ⟨-, ⟨-, rfl⟩ | ⟨-, rfl⟩⟩ := dataStep_next h
  · rw [targetDataStep_frame]; rfl
  · rw [predictionDataStep_frame hf]; rfl

/-- Settles O36: one equation for each row of the table; a data step leaves the state where it is. -/
theorem stateTableRows : Obligations.StateTableRows := by
  intro e s hf
  refine ⟨pushEvent_idle_disabled e hf, exec_pushIngress_opens e hf, fun hst hen => ?_, exec_pushIngress_closes e hf⟩
  rw [exec_pushIngress, pushEvent_data_enabled e hf hst hen]
  exact ⟨rfl, fun t h => (dataStep_st (s := shiftIn e s) hf h).trans hst⟩

/-- Settles O35: what a call does after the shift leaves the pipeline alone. -/
theorem everyCallShiftsThePipeline : Obligations.EveryCallShiftsThePipeline := by
  refine ⟨fun e s t h => ?_, fun e s => pushEvent_idle_disabled e⟩
  have hframe := pushEvent_frame h
  exact ⟨congrArg State.stage0 hframe, congrArg State.stage1 hframe⟩

/-- Settles O38: the first call takes the row that opens a segment, the second the row that closes it. -/
theorem enableThenDisableEmitsTwoSyncs : Obligations.EnableThenDisableEmitsTwoSyncs := by
  intro s e e' hf hst
  refine ⟨_, _, _, _, exec_setEnabled_next hf true, exec_pushIngress_opens e ?_ hst rfl, exec_setEnabled_next ?_ false,
    exec_pushIngress_closes e' ?_ rfl rfl, rfl, rfl, rfl, rfl, rfl⟩
  all_goals exact hf

/-! ## A mode changed inside a segment -/

/-- A noted change stays noted, whatever is written next (log 14). -/
theorem writeMode_keeps_note {s : State} (m : BranchMode) (h : s.modeChanged = true) :
    (writeMode m s).modeChanged = true := by
  rw [writeMode_modeChanged, h, Bool.true_or]

theorem dataStep_of_modeChanged {s : State} (h : s.modeChanged = true) :
    dataStep s = .refused .modeChangedMidSegment :=
  if_pos h

/-- A call that completes in a segment whose mode was changed runs no data step, so it is the one that closes it. -/
theorem pushEvent_closes_of_modeChanged {e : IngressEvent} {s t : State} (h : pushEvent e s = .next t)
    (hst : s.st = .data) (hc : s.modeChanged = true) : s.enabled = false ∧ t.st = .idle := by
  obtain ⟨-, ⟨hidle, -⟩ | ⟨hidle, -⟩ | ⟨-, hen, rfl⟩ | ⟨-, -, hc', -⟩ | ⟨-, -, hc', -⟩⟩ := pushEvent_next h
  · exact absurd (hst.symm.trans hidle) (by decide)
  · exact absurd (hst.symm.trans hidle) (by decide)
  · exact ⟨hen, rfl⟩
  · exact absurd (hc.symm.trans hc') (by decide)
  · exact absurd (hc.symm.trans hc') (by decide)

/-- Only `reset()`, a construction and a call that closes the segment drop the note (42_encoder_control.md R166). -/
theorem exec_keeps_note {i : Instr} {s t : State} (h : exec i s = .next t) (hst : s.st = .data)
    (hc : s.modeChanged = true) :
    (t.st = .data ∧ t.modeChanged = true) ∨ i = .reset ∨ (∃ n, i = .construct n) ∨
      ((pushedEvent i).isSome ∧ s.enabled = false ∧ t.st = .idle) := by
  cases exec_next h with
  | construct n hi => exact .inr (.inr (.inl ⟨n, hi⟩))
  | reset _ hi => exact .inr (.inl hi)
  | push e _ hi hpush =>
    exact .inr (.inr (.inr ⟨Option.isSome_of_eq_some hi, pushEvent_closes_of_modeChanged hpush hst hc⟩))
  | setMode m _ _ ht => exact .inl (ht ▸ ⟨hst, writeMode_keeps_note m hc⟩)
  | packet u _ _ hg ht => rw [ht, hg.frame]; exact .inl ⟨hst, hc⟩
  | result _ ht => exact .inl (ht ▸ ⟨hst, hc⟩)
  | setEnabled _ _ _ ht => exact .inl (ht ▸ ⟨hst, hc⟩)
  | predictorReset _ _ ht => exact .inl (ht ▸ ⟨hst, hc⟩)
  | predict _ _ _ _ ht => exact .inl (ht ▸ ⟨hst, hc⟩)
  | hit _ _ _ ht => exact .inl (ht ▸ ⟨hst, hc⟩)
  | raised _ _ _ ht => exact .inl (ht ▸ ⟨hst, hc⟩)

/-- Settles O49: the write sets the note, the data step reads it first, and only the end of the segment drops it. -/
theorem modeChangeMidSegmentEndsDataSteps : Obligations.ModeChangeMidSegmentEndsDataSteps := by
  refine ⟨fun s m hf hst hm => ?_, fun i s hf hst hen hc hi => ?_, fun i s t => exec_keeps_note⟩
  · have hnote : (writeMode m s).modeChanged = true := by rw [writeMode_noted hst hm]
    exact ⟨_, _, exec_setMode_next hf m, hnote, hst, exec_setMode_next (s := setRet .unit (writeMode m s)) hf s.mode,
      writeMode_keeps_note _ hnote, hst, rfl⟩
  · obtain ⟨e, he⟩ := Option.isSome_iff_exists.1 hi
    rw [exec_of_pushedEvent he, pushEvent_data_enabled e hf hst hen]
    exact dataStep_of_modeChanged hc

end Sys2Proof.Machine
end

section
/-! SUPPORT. Target Mode (43_target_mode.md R190 to R197): a data step, and the rows that run one of its generators alone. -/

namespace Sys2Proof.Machine

/-- Settles O39: the call is `afterTargetCall`, whose baseline is `tracedBaseline`. -/
theorem targetModeTable : Obligations.TargetModeTable :=
  fun e _ hs => exec_pushIngress_target hs e

/-! ## The Direct rows -/

/-- A row that runs `GenDirect` alone (43_target_mode.md R193). -/
def IsDirectRow (i : Instr) (k : DirectKind) : Prop :=
  ∀ s : State, exec i s = accepting (fun s => returns .unit (genDirect k s)) s

section Direct

variable {i : Instr} {k : DirectKind} (hi : IsDirectRow i k) {s : State} (hf : s.fault = none) {d : U64}
  (hd : d = s.stage1.timestamp - s.prevTimestamp)
include hi hf hd

theorem exec_directRow : exec i s = .next { s with
    sink := s.sink ++ shortBytes s.params (directHeader s.params k) d
    prevTimestamp := s.stage1.timestamp, ret := .unit } := by
  subst hd
  rw [hi s, accepting_none hf]
  rfl

theorem exec_directRow_compressed {ch : CHCode} (hch : compressedHeaderFor s.params (directHeader s.params k) = ch)
    (h : d.toNat < 64) : exec i s = .next { s with
      sink := s.sink ++ [encodeCompressed ch (d.setWidth 6)]
      prevTimestamp := s.stage1.timestamp, ret := .unit } := by
  rw [exec_directRow hi hf hd, shortBytes_compressed h, hch]

theorem exec_directRow_full (h : 64 ≤ d.toNat) : exec i s = .next { s with
    sink := s.sink ++ ([encodeFullHeader s.params.chNA (directHeader s.params k) 0#3] ++ encodeVarint d)
    prevTimestamp := s.stage1.timestamp, ret := .unit } := by
  rw [exec_directRow hi hf hd, shortBytes_full h, ttNone, List.singleton_append]

end Direct

/-- Settles O30: the delta chooses the form (43_target_mode.md R194), under the header of the row's kind. -/
theorem directRowResults : Obligations.DirectRowResults := by
  intro s d hf hp hd
  refine ⟨fun h => ⟨?_, ?_, ?_⟩, fun h => ⟨?_, ?_, ?_⟩, ?_, ?_, ?_⟩
  · exact exec_directRow_compressed exec_tbC hf hd (compressedHeaderFor_fhTB _) h
  · exact exec_directRow_compressed exec_ntC hf hd (compressedHeaderFor_fhNT hp) h
  · exact exec_directRow_compressed exec_ijC hf hd (compressedHeaderFor_fhIJ hp) h
  · exact exec_directRow_full exec_tbF hf hd h
  · exact exec_directRow_full exec_ntF hf hd h
  · exact exec_directRow_full exec_ijF hf hd h
  · rw [exec_tbC, exec_tbF]
  · rw [exec_ntC, exec_ntF]
  · rw [exec_ijC, exec_ijF]

/-! ## The rows with an address -/

/-- Settles O31: the packet is its header and two varints, and no form of it is compressed. -/
theorem uninferableJumpRowResult : Obligations.UninferableJumpRowResult := by
  intro s hf
  rw [exec_uj, accepting_none hf, genUJ, longBytes_eq, List.append_assoc, List.singleton_append]
  rfl

/-- The Trap row of each reason is `GenTrap` of it (43_target_mode.md R196). -/
theorem exec_trapInstr (r : TrapReason) (s : State) :
    exec (trapInstr r) s = accepting (fun s => returns .unit (genTrap r s)) s := by
  cases r with
  | exception => exact exec_trapE s
  | interrupt => exact exec_trapI s
  | trapReturn => exact exec_trapR s

theorem exec_trapInstr_next (r : TrapReason) {s : State} (hf : s.fault = none) :
    exec (trapInstr r) s = .next { s with
      sink := s.sink ++ ([encodeFullHeader s.params.chNA s.params.fhTRAP (trapCode s.params r)] ++
        encodeVarint ((s.stage0.address >>> 1) ^^^ (s.stage1.address >>> 1)) ++
        encodeVarint (s.stage1.timestamp - s.prevTimestamp))
      prevTimestamp := s.stage1.timestamp
      ret := .unit } := by
  rw [exec_trapInstr, accepting_none hf, genTrap, longBytes_eq, List.append_assoc, List.singleton_append]
  rfl

/-- Settles O32: one generator for the three reasons; the header bytes are computed at the default codes. -/
theorem trapRowResults : Obligations.TrapRowResults := by
  refine ⟨?_, by decide, by decide, by decide⟩
  rintro s hf i tt (⟨rfl, rfl⟩ | ⟨rfl, rfl⟩ | ⟨rfl, rfl⟩)
  · exact exec_trapInstr_next .exception hf
  · exact exec_trapInstr_next .interrupt hf
  · exact exec_trapInstr_next .trapReturn hf

end Sys2Proof.Machine
end

section
/-! SUPPORT. Prediction Mode (44_prediction_mode.md R210 to R219): the two invariants, the rows that run the Hit and Miss
generators alone, the predict sub-stage by the kind in `stage0`, the three arms of a call with the commit, and segments with
clean accounting. -/

namespace Sys2Proof.Machine

/-! ## Kinds and invariants -/

theorem isBranch_iff (k : EventKind) : isBranch k = true ↔ k = .branchTaken ∨ k = .branchNotTaken := by
  cases k <;> decide

theorem isJumpOrTrap_eq_false_iff (k : EventKind) :
    isJumpOrTrap k = false ↔ k = .branchTaken ∨ k = .branchNotTaken ∨ k = .none := by
  cases k <;> decide

theorem isJumpOrTrap_of_isBranch {k : EventKind} (h : isBranch k = true) : isJumpOrTrap k = false :=
  (isJumpOrTrap_eq_false_iff k).2 (((isBranch_iff k).1 h).imp_right .inl)

theorem isBranch_of_isJumpOrTrap {k : EventKind} (h : isJumpOrTrap k = true) : isBranch k = false := by
  cases hb : isBranch k with
  | false => rfl
  | true => exact absurd (h.symm.trans (isJumpOrTrap_of_isBranch hb)) (by decide)

/-- The Hit packet's invariant (44_prediction_mode.md R213). -/
theorem hitInvariant_iff (s : State) : hitInvariant s = true ↔ s.missFlag = false ∧
    (s.stage1.kind = .branchTaken ∨ s.stage1.kind = .branchNotTaken ∨ s.stage1.kind = .none) := by
  simp [hitInvariant, isBranch_iff, or_assoc, and_comm]

/-- The Miss packet's invariant (44_prediction_mode.md R214). -/
theorem missInvariant_iff (s : State) : missInvariant s = true ↔
    (s.stage1.kind = .branchTaken ∨ s.stage1.kind = .branchNotTaken) ∧ (s.hitCount = 0 ∨ s.hitCount = 1) := by
  simp [missInvariant, isBranch_iff]

/-! ## The checked generators -/

section Checks

variable {s : State}

theorem genHit_pass (h : hitInvariant s = true ∨ s.params.assertMode = .continue) : genHit s = emitHit s :=
  asserting_pass h

theorem genMiss_pass (h : missInvariant s = true ∨ s.params.assertMode = .continue) : genMiss s = genDirect .miss s :=
  asserting_pass h

theorem genHit_raise (h : ¬ hitInvariant s = true) (ha : s.params.assertMode = .fault) :
    genHit s = raise .hitInvariant s :=
  asserting_raise (Bool.eq_false_iff.2 h) ha

theorem genMiss_raise (h : ¬ missInvariant s = true) (ha : s.params.assertMode = .fault) :
    genMiss s = raise .missInvariant s :=
  asserting_raise (Bool.eq_false_iff.2 h) ha

end Checks

/-! ## The Hit and Miss rows -/

/-- A packet row on a block without a fault runs its generator. -/
theorem runGenerator_of_no_fault (gen : State → State) {s : State} (hf : s.fault = none) :
    accepting (fun s => returns .unit (gen s)) s = .next (setRet .unit (gen s)) := by
  rw [accepting_none hf]; rfl

theorem hitRow_of_pending {s : State} (h : s.hitCount ≠ 0) : hitRow s = genHit s :=
  if_neg h

section Forms

variable {s : State} (hp : s.params.wf)
include hp

theorem emitHit_compressed (h : s.hitCount.toNat < 64) : emitHit s = { s with
    sink := s.sink ++ [encodeCompressed s.params.chTB (s.hitCount.setWidth 6)], hitCount := 0 } := by
  rw [emitHit, shortBytes_compressed h, compressedHeaderFor_fhHIT hp]; rfl

theorem emitHit_full (h : 64 ≤ s.hitCount.toNat) : emitHit s = { s with
    sink := s.sink ++ ([encodeFullHeader s.params.chNA s.params.fhTB 0#3] ++ encodeVarint s.hitCount)
    hitCount := 0 } := by
  rw [emitHit, shortBytes_full h, fhHIT_eq_fhTB hp]; rfl

theorem genDirect_miss_compressed (h : (deltaTimestamp s).toNat < 64) : genDirect .miss s = { s with
    sink := s.sink ++ [encodeCompressed s.params.chNT ((deltaTimestamp s).setWidth 6)]
    prevTimestamp := s.stage1.timestamp } := by
  rw [genDirect, directHeader, shortBytes_compressed h, compressedHeaderFor_fhMISS hp]; rfl

theorem genDirect_miss_full (h : 64 ≤ (deltaTimestamp s).toNat) : genDirect .miss s = { s with
    sink := s.sink ++ ([encodeFullHeader s.params.chNA s.params.fhNT 0#3] ++ encodeVarint (deltaTimestamp s))
    prevTimestamp := s.stage1.timestamp } := by
  rw [genDirect, directHeader, shortBytes_full h, fhMISS_eq_fhNT hp]; rfl

end Forms

/-- Settles O33: with hits pending the row is the checked generator, and the count chooses the form. -/
theorem hitRowResults : Obligations.HitRowResults := by
  intro s hf hp
  have hforms : exec .hitC s = exec .hitF s := by rw [exec_hitC, exec_hitF]
  have hrow : exec .hitC s = .next (setRet .unit (hitRow s)) := by rw [exec_hitC, runGenerator_of_no_fault _ hf]
  rw [← hforms, ← hitInvariant_iff, hrow]
  refine ⟨rfl, fun hc => ?_, fun hc hinv => ⟨fun h => ?_, fun h => ?_⟩, fun hc ha hinv => ?_⟩
  · rw [hitRow, if_pos hc]; rfl
  · rw [hitRow_of_pending hc, genHit_pass hinv, emitHit_compressed hp h]; rfl
  · rw [hitRow_of_pending hc, genHit_pass hinv, emitHit_full hp h]; rfl
  · rw [hitRow_of_pending hc, genHit_raise hinv ha]; rfl

/-- Settles O34: the row is the checked generator, and the delta chooses the form. -/
theorem missRowResults : Obligations.MissRowResults := by
  rintro s _ hf hp rfl
  have hforms : exec .missC s = exec .missF s := by rw [exec_missC, exec_missF]
  have hrow : exec .missC s = .next (setRet .unit (genMiss s)) := by rw [exec_missC, runGenerator_of_no_fault _ hf]
  rw [← hforms, ← missInvariant_iff, hrow]
  refine ⟨rfl, fun hinv => ⟨fun h => ?_, fun h => ?_⟩, fun ha hinv => ?_⟩
  · rw [genMiss_pass hinv, genDirect_miss_compressed hp h]; rfl
  · rw [genMiss_pass hinv, genDirect_miss_full hp h]; rfl
  · rw [genMiss_raise hinv ha]; rfl

/-! ## The predict sub-stage -/

/-- The actual outcome of the branch in `stage0` (44_prediction_mode.md R211). -/
def branchOutcome (s : State) : Bool := s.stage0.kind == .branchTaken

section Predict

variable {s : State}

theorem predictStage_of_not_branch (h : isBranch s.stage0.kind = false) : predictStage s = s := by
  rw [predictStage, h]; rfl

theorem pendingMiss_of_not_branch (h : isBranch s.stage0.kind = false) : pendingMiss s = false := by
  rw [pendingMiss, h]; rfl

theorem forceFlush_of_not_branch (h : isBranch s.stage0.kind = false) : forceFlush s = isJumpOrTrap s.stage0.kind := by
  rw [forceFlush, pendingMiss_of_not_branch h, Bool.false_or]

section Branch

variable (hb : isBranch s.stage0.kind = true)
include hb

theorem predictStage_of_hit (h : predictHits s.stage0.address (branchOutcome s) s = true) :
    predictStage s = setHitCount (s.hitCount + 1) (predictUpdate s.stage0.address (branchOutcome s) s) := by
  rw [predictStage, if_pos hb]
  exact if_pos h

theorem predictStage_of_miss (h : predictHits s.stage0.address (branchOutcome s) s = false) :
    predictStage s = predictUpdate s.stage0.address (branchOutcome s) s := by
  rw [predictStage, if_pos hb]
  exact if_neg (Bool.eq_false_iff.1 h)

theorem pendingMiss_of_branch : pendingMiss s = !predictHits s.stage0.address (branchOutcome s) s := by
  rw [pendingMiss, hb, Bool.true_and]; rfl

theorem forceFlush_of_branch : forceFlush s = pendingMiss s := by
  rw [forceFlush, isJumpOrTrap_of_isBranch hb, Bool.or_false]

end Branch

/-- A miss is pending only of a branch. -/
theorem isBranch_of_pendingMiss (h : pendingMiss s = true) : isBranch s.stage0.kind = true :=
  (Bool.and_eq_true_iff.1 h).1

theorem forceFlush_of_pendingMiss (h : pendingMiss s = true) : forceFlush s = true := by
  rw [forceFlush, h, Bool.true_or]

theorem forceFlush_of_isJumpOrTrap (h : isJumpOrTrap s.stage0.kind = true) : forceFlush s = true := by
  rw [forceFlush, h, Bool.or_true]

/-- The predict sub-stage counts a hit only in a call that forces no flush (44_prediction_mode.md R211). -/
theorem predictStage_hitCount_cases (s : State) : (predictStage s).hitCount = s.hitCount ∨
    ((predictStage s).hitCount = s.hitCount + 1 ∧ forceFlush s = false) := by
  cases hb : isBranch s.stage0.kind with
  | false => rw [predictStage_of_not_branch hb]; exact .inl rfl
  | true =>
    cases hh : predictHits s.stage0.address (branchOutcome s) s with
    | false => rw [predictStage_of_miss hb hh]; exact .inl rfl
    | true =>
      rw [predictStage_of_hit hb hh, forceFlush_of_branch hb, pendingMiss_of_branch hb, hh]
      exact .inr ⟨rfl, rfl⟩

theorem predictStage_hitCount_of_flush (h : forceFlush s = true) : (predictStage s).hitCount = s.hitCount :=
  (predictStage_hitCount_cases s).resolve_right fun h' => absurd (h.symm.trans h'.2) (by decide)

end Predict

/-- Settles O40: a branch is predicted and its cell moved as the outcome table says; any other kind leaves the state. -/
theorem predictSubStageTable : Obligations.PredictSubStageTable := by
  rintro s _ _ _ hwf rfl rfl rfl
  rw [← cellAt_eq, ← predictorIndex_eq, predictTable_eq]
  refine ⟨fun hk => ?_, fun hk => ?_, fun hk => ?_⟩
  · have hb := (isBranch_iff _).2 hk
    refine ⟨(predictUpdate s.stage0.address (branchOutcome s) s).tab, cellAt_predictUpdate _ _ hwf,
      fun j => tabRead_predictUpdate_other _, fun hh => ?_, fun hh => ?_⟩
    · have hpending : pendingMiss s = false := (pendingMiss_of_branch hb).trans (congrArg not hh)
      exact ⟨predictStage_of_hit hb hh, hpending, (forceFlush_of_branch hb).trans hpending⟩
    · have hpending : pendingMiss s = true := (pendingMiss_of_branch hb).trans (congrArg not hh)
      exact ⟨predictStage_of_miss hb hh, hpending, (forceFlush_of_branch hb).trans hpending⟩
  · have hj : isJumpOrTrap s.stage0.kind = true := by
      rcases hk with h | h | h | h | h <;> rw [h] <;> rfl
    have hb := isBranch_of_isJumpOrTrap hj
    exact ⟨predictStage_of_not_branch hb, pendingMiss_of_not_branch hb, forceFlush_of_isJumpOrTrap hj⟩
  · have hb : isBranch s.stage0.kind = false := by rw [hk]; rfl
    exact ⟨predictStage_of_not_branch hb, pendingMiss_of_not_branch hb, by rw [forceFlush_of_not_branch hb, hk]; rfl⟩

/-! ## The generate sub-stage -/

section Arms

variable {flush : Bool} {s : State}

theorem generateStage_hitArm (hflush : flush = true) (hc : s.hitCount ≠ 0) : generateStage flush s = genHit s := by
  rw [generateStage, if_pos (by simpa [hflush] using hc)]

section Skipped

variable (hskip : ¬ (flush = true ∧ s.hitCount ≠ 0))
include hskip

theorem generateStage_missArm (hm : s.missFlag = true) : generateStage flush s = genMiss s := by
  rw [generateStage, if_neg (by simpa using hskip), if_pos hm]

theorem generateStage_thirdArm (hm : s.missFlag = false) : generateStage flush s = jumpTrapDispatch s := by
  rw [generateStage, if_neg (by simpa using hskip), if_neg (Bool.eq_false_iff.1 hm)]

end Skipped

end Arms

/-- The jump and trap table appends the packet that traces the older event, if it is a jump or a trap
(44_prediction_mode.md R216). -/
theorem jumpTrapDispatch_eq (s : State) :
    jumpTrapDispatch s = { s with
      sink := s.sink ++ packetBytes s.params (tracedPacket .prediction s.stage1 s.stage0 s.prevTimestamp)
      prevTimestamp :=
        if s.stage1.kind = .none ∨ s.stage1.kind = .branchTaken ∨ s.stage1.kind = .branchNotTaken then s.prevTimestamp
        else s.stage1.timestamp } := by
  rw [jumpTrapDispatch, tracedPacket]
  cases s.stage1.kind with
  | none | branchTaken | branchNotTaken => simp [packetBytes]
  | jumpInferable => exact genDirect_eq _ s
  | jumpUninferable => exact genUJ_eq s
  | exception | interrupt | trapReturn => exact genTrap_eq _ s

/-- The generate sub-stage does not write `missFlag` (44_prediction_mode.md R218). -/
theorem generateStage_missFlag (flush : Bool) (s : State) : (generateStage flush s).missFlag = s.missFlag := by
  rcases generateStage_cases flush s with h | h | ⟨f, h⟩ | h <;> rw [h]
  · rfl
  · rfl
  · rfl
  · rw [jumpTrapDispatch_eq]

/-! ## A call -/

section Call

variable {s : State} (hs : RunsDataStep .prediction s) (e : IngressEvent)
include hs

theorem exec_pushIngress_prediction :
    exec (.pushIngress e) s = .next (setRet .unit (predictionDataStep (shiftIn e s))) := by
  obtain ⟨hf, hst, hen, hmode, hc⟩ := hs
  rw [exec_pushIngress, pushEvent_data_enabled e hf hst hen, dataStep_prediction (s := shiftIn e s) hc hmode]
  rfl

/-- A call whose generate sub-stage ends in `u` without a fault commits the new flag to it. -/
theorem exec_pushIngress_commits {u : State}
    (hu : generateStage (forceFlush (shiftIn e s)) (predictStage (shiftIn e s)) = u) (hf : u.fault = none) :
    exec (.pushIngress e) s = .next (setRet .unit (setMissFlag (pendingMiss (shiftIn e s)) u)) := by
  rw [exec_pushIngress_prediction hs, predictionDataStep, hu, commitMissFlag_none hf]

theorem predictStage_shiftIn_fault : (predictStage (shiftIn e s)).fault = none :=
  (predictStage_fault _).trans hs.1

/-- Only a fault ends the run of data steps: a call writes none of the other fields that decide on the next one. -/
theorem runsDataStep_of_no_fault (hf : (predictionDataStep (shiftIn e s)).fault = none) :
    RunsDataStep .prediction (setRet .unit (predictionDataStep (shiftIn e s))) := by
  obtain ⟨hfault, hsegment⟩ := hs
  rw [predictionDataStep_frame (s := shiftIn e s) hfault]
  exact ⟨hf, hsegment⟩

end Call

/-- Settles O41: the arm's packet is the count of the predict sub-stage, which leaves all else but the table. -/
theorem hitArmFlushesThePendingCount : Obligations.HitArmFlushesThePendingCount := by
  intro e s w mid hs hw hmid hflush hc hinv
  obtain rfl : w = shiftIn e s := hw
  obtain ⟨tab, c, hp⟩ := exists_predictStage_eq (shiftIn e s)
  have harm : generateStage (forceFlush (shiftIn e s)) mid = emitHit mid := by
    rw [generateStage_hitArm hflush hc, genHit_pass]
    simpa [hitInvariant_iff, hmid] using hinv
  subst hmid
  rw [exec_pushIngress_commits hs e harm (predictStage_shiftIn_fault hs e), hp]
  rfl

/-- Settles O42: the arm's packet is that of `stage1`, the event pushed before, from the baseline before the call. -/
theorem missArmReportsThePreviousCallsMiss : Obligations.MissArmReportsThePreviousCallsMiss := by
  intro e s w mid hs hw hmid hskip hm hinv
  obtain rfl : w = shiftIn e s := hw
  obtain ⟨tab, c, hp⟩ := exists_predictStage_eq (shiftIn e s)
  have harm : generateStage (forceFlush (shiftIn e s)) mid = genDirect .miss mid := by
    rw [generateStage_missArm hskip (by simpa [hmid] using hm), genMiss_pass]
    simpa [missInvariant_iff, hmid] using hinv
  subst hmid
  rw [exec_pushIngress_commits hs e harm (predictStage_shiftIn_fault hs e), hp]
  rfl

/-- Settles O43: the jump and trap table on the event pushed before. -/
theorem thirdArmDispatchesJumpsAndTraps : Obligations.ThirdArmDispatchesJumpsAndTraps := by
  intro e s w mid hs hw hmid hskip hm
  obtain rfl : w = shiftIn e s := hw
  obtain ⟨tab, c, hp⟩ := exists_predictStage_eq (shiftIn e s)
  have harm : generateStage (forceFlush (shiftIn e s)) mid = jumpTrapDispatch mid :=
    generateStage_thirdArm hskip (by simpa [hmid] using hm)
  subst hmid
  rw [exec_pushIngress_commits hs e harm ((jumpTrapDispatch_fault _).trans (predictStage_shiftIn_fault hs e)),
    jumpTrapDispatch_eq, hp]
  rfl

/-- A call that runs no Prediction Mode data step leaves `missFlag` (10_state.md R33). -/
theorem pushEvent_missFlag_of_no_prediction {e : IngressEvent} {s t : State} (hs : ¬ RunsDataStep .prediction s)
    (h : pushEvent e s = .next t) : t.missFlag = s.missFlag := by
  obtain ⟨hf, ⟨-, -, rfl⟩ | ⟨-, -, rfl⟩ | ⟨-, -, rfl⟩ | ⟨-, -, -, -, rfl⟩ | ⟨hst, hen, hc, hmode, -⟩⟩ :=
    pushEvent_next h
  · rfl
  · rfl
  · rfl
  · rw [targetDataStep_frame]; rfl
  · exact absurd ⟨hf, hst, hen, hmode, hc⟩ hs

/-- Settles O44: neither sub-stage writes the flag, and the commit is the last thing a data step does. -/
theorem missFlagIsCommittedLast : Obligations.MissFlagIsCommittedLast := by
  refine ⟨fun e s w mid g hs hw hmid hg => ?_, fun e s t => pushEvent_missFlag_of_no_prediction⟩
  obtain rfl : w = shiftIn e s := hw
  subst hmid
  have hold : (predictStage (shiftIn e s)).missFlag = s.missFlag := predictStage_missFlag _
  refine ⟨hold, hg ▸ (generateStage_missFlag _ _).trans hold, exec_pushIngress_commits hs e hg.symm, fun hfault => ?_⟩
  obtain ⟨f, hf⟩ := Option.ne_none_iff_exists'.1 hfault
  rw [exec_pushIngress_prediction hs, predictionDataStep, ← hg, commitMissFlag_some hf]
  rfl

/-! ## Clean segments -/

/-- Where both checks of the generate sub-stage hold it raises nothing, and a forced flush leaves no hits pending. -/
theorem generateStage_of_invariants {flush : Bool} {s : State}
    (hhit : flush = true → s.hitCount ≠ 0 → hitInvariant s = true)
    (hmiss : s.missFlag = true → missInvariant s = true) :
    (generateStage flush s).fault = s.fault ∧ (flush = true → (generateStage flush s).hitCount = 0) := by
  by_cases hflush : flush = true ∧ s.hitCount ≠ 0
  · rw [generateStage_hitArm hflush.1 hflush.2, genHit_pass (.inl (hhit hflush.1 hflush.2))]
    exact ⟨rfl, fun _ => rfl⟩
  · have hcount (h : flush = true) : s.hitCount = 0 := by simpa [h] using hflush
    cases hm : s.missFlag with
    | true =>
      rw [generateStage_missArm hflush hm, genMiss_pass (.inl (hmiss hm))]
      exact ⟨rfl, hcount⟩
    | false =>
      rw [generateStage_thirdArm hflush hm, jumpTrapDispatch_eq]
      exact ⟨rfl, hcount⟩

/-- The accounting is clean after a call that commits its own pending miss and leaves no hits when it forces a flush. -/
theorem cleanAccounting_of_committed {w t : State} (hstage : t.stage0 = w.stage0) (hmiss : t.missFlag = pendingMiss w)
    (hcount : forceFlush w = true → t.hitCount = 0) : CleanAccounting t := by
  rw [CleanAccounting, hstage, hmiss]
  refine ⟨fun h => ⟨isBranch_of_pendingMiss h, hcount (forceFlush_of_pendingMiss h)⟩, fun hc => ?_⟩
  exact Bool.eq_false_iff.2 fun h => hc (hcount (forceFlush_of_isJumpOrTrap h))

section Clean

variable {s : State} (hclean : CleanAccounting s) (e : IngressEvent)
include hclean

/-- A flushed count was pending before the call, so no miss is, and the event before is no jump or trap. -/
theorem hitInvariant_of_clean (hflush : forceFlush (shiftIn e s) = true)
    (hc : (predictStage (shiftIn e s)).hitCount ≠ 0) : hitInvariant (predictStage (shiftIn e s)) = true := by
  rw [predictStage_hitCount_of_flush hflush, shiftIn_hitCount] at hc
  rw [hitInvariant_iff, predictStage_missFlag, predictStage_stage1]
  exact ⟨Bool.eq_false_iff.2 fun h => hc (hclean.1 h).2, (isJumpOrTrap_eq_false_iff _).1 (hclean.2 hc)⟩

/-- A pending miss is of the branch before, with no hits but the one this call may add. -/
theorem missInvariant_of_clean (hm : (predictStage (shiftIn e s)).missFlag = true) :
    missInvariant (predictStage (shiftIn e s)) = true := by
  rw [predictStage_missFlag] at hm
  obtain ⟨hbranch, hzero⟩ := hclean.1 hm
  rw [missInvariant_iff, predictStage_stage1]
  refine ⟨(isBranch_iff _).1 hbranch, ?_⟩
  rcases predictStage_hitCount_cases (shiftIn e s) with h | ⟨h, -⟩
  · exact .inl (h.trans hzero)
  · exact .inr (h.trans (congrArg (· + 1) hzero))

end Clean

/-- One call of a clean segment (44_prediction_mode.md R219): both checks hold, so the call commits. -/
theorem exec_pushIngress_clean {s : State} (hs : RunsDataStep .prediction s) (hclean : CleanAccounting s)
    (e : IngressEvent) :
    ∃ t, exec (.pushIngress e) s = .next t ∧ RunsDataStep .prediction t ∧ CleanAccounting t := by
  obtain ⟨hfault, hcount⟩ :=
    generateStage_of_invariants (hitInvariant_of_clean hclean e) (missInvariant_of_clean hclean e)
  have hnone := hfault.trans (predictStage_shiftIn_fault hs e)
  have hcommit : predictionDataStep (shiftIn e s) = setMissFlag (pendingMiss (shiftIn e s))
      (generateStage (forceFlush (shiftIn e s)) (predictStage (shiftIn e s))) := commitMissFlag_none hnone
  refine ⟨_, exec_pushIngress_prediction hs e, runsDataStep_of_no_fault hs e (hcommit ▸ hnone),
    cleanAccounting_of_committed (w := shiftIn e s) ?_ ?_ ?_⟩
  · rw [predictionDataStep_frame (s := shiftIn e s) hs.1]; rfl
  · rw [hcommit]; rfl
  · rw [hcommit]; exact hcount

/-- A clean segment stays clean, by induction on the events. -/
theorem pushEvents_clean (es : List IngressEvent) : ∀ s : State, RunsDataStep .prediction s → CleanAccounting s →
    ∃ t, pushEvents es s = .next t ∧ RunsDataStep .prediction t ∧ CleanAccounting t := by
  induction es with
  | nil => exact fun s hs hclean => ⟨s, rfl, hs, hclean⟩
  | cons e es ih =>
    intro s hs hclean
    obtain ⟨u, hexec, hu, hcleanu⟩ := exec_pushIngress_clean hs hclean e
    rw [pushEvents_cons_of_next hexec]
    exact ih u hu hcleanu

/-- Settles O57: the invariant along the run, and the opening call, which emits a Sync packet and counts nothing. -/
theorem cleanSegmentNeverFaults : Obligations.CleanSegmentNeverFaults := by
  refine ⟨pushEvents_clean, fun e s t hst hen hmode hc hm h => ?_⟩
  have hf : s.fault = none := by rw [exec_pushIngress] at h; exact (pushEvent_next h).1
  cases (exec_pushIngress_opens e hf hst hen).symm.trans h
  exact ⟨⟨hf, rfl, hen, hmode, rfl⟩, cleanAccounting_of_nothing_pending hc hm⟩

end Sys2Proof.Machine
end

section
/-! SUPPORT. Faults (60_exceptions.md R240 to R250): a construction without cells, what a failed check of a call leaves, what
a faulted block still answers and what it refuses, and the whole packets of the sink (R247; 20_memory.md R57). -/

namespace Sys2Proof.Machine

/-! ## Whole packets -/

/-- The parameters of a block are fixed (00_scope.md R6; log 26): a construction takes them over. -/
theorem exec_keeps_params {i : Instr} {s t : State} (h : exec i s = .next t) : t.params = s.params := by
  cases exec_next h with
  | construct _ _ _ ht | result _ ht | reset _ _ ht | setEnabled _ _ _ ht | setMode _ _ _ ht | predictorReset _ _ ht
  | predict _ _ _ _ ht | hit _ _ _ ht | raised _ _ _ ht => rw [ht]; rfl
  | packet u _ _ hg ht => rw [ht, hg.frame]; rfl
  | push _ _ _ hpush => rw [pushEvent_frame hpush]; rfl

section Packets

variable {s t : State} (hs : WholePackets s) (hp : t.params = s.params)
include hs hp

theorem WholePackets.of_sink_eq (h : t.sink = s.sink) : WholePackets t := by
  obtain ⟨qs, hwf, hsink⟩ := hs
  exact ⟨qs, hwf, by rw [h, hsink, hp]⟩

/-- The packets of the longer sink are the old ones and the one appended. -/
theorem WholePackets.of_appendsPacket {m : BranchMode} (h : AppendsPacket m s t) : WholePackets t := by
  obtain ⟨qs, hwf, hsink⟩ := hs
  obtain ⟨q, hq, -, happend⟩ := h
  refine ⟨qs ++ [q], List.forall_mem_append.2 ⟨hwf, List.forall_mem_singleton.2 hq⟩, ?_⟩
  rw [happend, hsink, hp, List.flatMap_append, List.flatMap_singleton]

end Packets

/-- A construction that completes leaves nothing of the old block but its parameters and the queue. -/
theorem exec_construct_next {n : Nat} {s t : State} (h : exec (.construct n) s = .next t) :
    t = State.constructed s.params n s.inbox := by
  rw [exec_construct] at h
  split at h
  · cases h
  · exact (Host.Outcome.next.inj h).symm

theorem exec_keeps_wholePackets {i : Instr} {s t : State} (hs : WholePackets s) (h : exec i s = .next t) :
    WholePackets t := by
  by_cases hc : ∃ n, i = .construct n
  · obtain ⟨n, rfl⟩ := hc
    exact wholePackets_of_sink_nil (congrArg State.sink (exec_construct_next h))
  · obtain hsink | ⟨m, hpacket⟩ := exec_appends h (not_exists.1 hc)
    · exact hs.of_sink_eq (exec_keeps_params h) hsink
    · exact hs.of_appendsPacket (exec_keeps_params h) hpacket

/-- Settles O56: the queue is no part of the invariant, and an instruction empties the sink, leaves it or appends one
packet. -/
theorem stepKeepsWholePackets : Obligations.StepKeepsWholePackets := by
  intro s t hs h
  obtain rfl | ⟨i, rest, h⟩ := step_next h
  · exact hs
  · exact exec_keeps_wholePackets (s := { s with inbox := rest }) hs h

/-! ## Taking a fault -/

/-- A call whose generate sub-stage raises a fault ends there: the flag is not committed. -/
theorem exec_pushIngress_raises {s : State} (hs : RunsDataStep .prediction s) (e : IngressEvent) {f : BlockFault}
    (h : generateStage (forceFlush (shiftIn e s)) (predictStage (shiftIn e s)) =
      raise f (predictStage (shiftIn e s))) :
    exec (.pushIngress e) s = .next (setRet .unit (raise f (predictStage (shiftIn e s)))) := by
  rw [exec_pushIngress_prediction hs, predictionDataStep, h, commitMissFlag_some (raise_fault _ f)]

/-- Settles O45: the arm that runs checks its invariant on the state the predict sub-stage left, and raises. -/
theorem brokenInvariantsAreRecordedAsFaults : Obligations.BrokenInvariantsAreRecordedAsFaults := by
  intro e s w mid hs hassert hw hmid
  obtain rfl : w = shiftIn e s := hw
  subst hmid
  have hmode : (predictStage (shiftIn e s)).params.assertMode = .fault := by simpa using hassert
  refine ⟨fun hflush hc hinv => ?hit, fun hskip hm hinv => ?miss⟩
  case hit =>
    refine exec_pushIngress_raises hs e ?_
    rw [generateStage_hitArm hflush hc, genHit_raise (by simpa [hitInvariant_iff] using hinv) hmode]
  case miss =>
    refine exec_pushIngress_raises hs e ?_
    rw [generateStage_missArm hskip (by simpa using hm),
      genMiss_raise (by simpa [missInvariant_iff] using hinv) hmode]

/-! ## The faulted block -/

/-- What an instruction that completes on a faulted block did: every other effect is one of a block without a fault. -/
theorem Effect.of_faulted {i : Instr} {s t : State} {f : BlockFault} (h : Effect i s t) (hf : s.fault = some f) :
    (∃ n, i = .construct n) ∨ ∃ r, t = setRet r s := by
  cases h with
  | construct n hi => exact .inl ⟨n, hi⟩
  | result r ht => exact .inr ⟨r, ht⟩
  | reset hnone | setEnabled _ hnone | setMode _ hnone | predictorReset hnone | predict _ _ hnone | packet _ hnone
  | hit hnone | raised _ hnone | push _ hnone => cases hf.symm.trans hnone

/-- Settles O46: only `ret` differs where no construction ran, so the record stands. -/
theorem faultedBlockStaysFaulted : Obligations.FaultedBlockStaysFaulted := by
  intro i s t f hf h
  obtain hi | ⟨r, rfl⟩ := (exec_next h).of_faulted hf
  · exact .inl hi
  · exact .inr ⟨hf, rfl⟩

/-- Settles O22. -/
theorem constructRejectsZeroCells : Obligations.ConstructRejectsZeroCells := by
  intro s
  rw [exec_construct, if_pos rfl]

/-- Settles O47: the meaning of each of these rows is behind the gate `accepting`, which is shut. -/
theorem faultedBlockRefusesOperations : Obligations.FaultedBlockRefusesOperations := by
  intro s f hf
  have hgate (act : State → Result) : accepting act s = .refused .faultedBlock := accepting_some hf
  have hrow (gen : State → State) : runGenerator gen s = .refused .faultedBlock := hgate _
  refine ⟨?_, fun _ => ?_, ?_, fun _ => ?_, ?_, fun _ => ?_, fun i hi => ?push, ?_, fun _ _ => ?_,
    fun i hi => ?generator⟩
  case push =>
    obtain ⟨e, he⟩ := Option.isSome_iff_exists.1 hi
    rw [exec_of_pushedEvent he, pushEvent, hgate]
  case generator =>
    simp only [List.mem_cons, List.not_mem_nil, or_false] at hi
    rcases hi with rfl | rfl | rfl | rfl | rfl | rfl | rfl | rfl | rfl | rfl | rfl | rfl | rfl | rfl | rfl <;>
      exact hrow _
  · rw [exec_reset, hgate]
  · rw [exec_setEnabled, hgate]
  · rw [exec_getEnabled, hgate]
  · rw [exec_setMode, hgate]
  · rw [exec_getMode, hgate]
  · rw [exec_predictorPeek, hgate]
  · rw [exec_predictorReset, hgate]
  · rw [exec_predictorPredict, hgate]

end Sys2Proof.Machine
end
